-- ==== Sys2Proof/Word.lean ====
section
/-! DEFINITION. The word types of the RCA 1802 core (00_scope.md R6, R8). -/

namespace Sys2Proof

/-- A byte: `D`, `T`, an immediate, a memory location (R6). -/
abbrev Byte := BitVec 8

/-- A 16-bit register value or memory address (R6). -/
abbrev Addr := BitVec 16

/-- A 4-bit register index or selector value: `N`, `P`, `X` (R6, R21). -/
abbrev Nibble := BitVec 4

/-- A 3-bit I/O port number (30_encoding.md R85). -/
abbrev Port := BitVec 3

end Sys2Proof
end

