-- ==== Sys2Proof/Machine/Bits.lean ====
section
/-! DEFINITION. Bit-field and byte-order helpers (00_scope.md R8, R9). -/

namespace Sys2Proof

/-- The high nibble `b[7:4]` of a byte (R8). -/
def highNibble (b : Byte) : Nibble := b.extractLsb' 4 4

/-- The low nibble `b[3:0]` of a byte (R8): the register field `N` of an opcode byte. -/
def lowNibble (b : Byte) : Nibble := b.extractLsb' 0 4

/-- `hi ++ lo` of two nibbles, `hi` the more significant (R9). -/
def joinNibbles (hi lo : Nibble) : Byte := hi ++ lo

/-- `v[15:8]` of a register value (R8). -/
def highByte (v : Addr) : Byte := v.extractLsb' 8 8

/-- `v[7:0]` of a register value (R8). -/
def lowByte (v : Addr) : Byte := v.extractLsb' 0 8

/-- `hi ++ lo` of two bytes, `hi` the more significant (R9). -/
def joinBytes (hi lo : Byte) : Addr := hi ++ lo

/-- The port number `N & 7` of an opcode byte, that is `N[2:0]` (30_encoding.md R85). -/
def portField (b : Byte) : Port := b.extractLsb' 0 3

end Sys2Proof
end

