-- ==== Sys2Proof/Config.lean ====
section
/-! DEFINITION. What the spec leaves open and the model leaves free (00_scope.md R7). No constant
here has a body: nothing in Lean can evaluate one or prove a value of it, so a claim about them
holds for every value. -/

namespace Sys2Proof

/-- The four external flag inputs EF1 to EF4 (00_scope.md R7, R11). -/
inductive EfLine where
  | ef1
  | ef2
  | ef3
  | ef4
deriving DecidableEq, Repr

/-- `t_init`: `T` after the reset numbered `epoch`, any byte (70_reset_and_hazards.md R282).
DESIGN CHOICE, safe: log 2. -/
opaque Config.tInit (epoch : Nat) : Byte

/-- `mem_init`: the byte at `addr` after the reset numbered `epoch`, any byte
(70_reset_and_hazards.md R283). DESIGN CHOICE, safe: log 3. -/
opaque Config.memInit (epoch addr : Nat) : Byte

/-- `in.ef[k]` at the step numbered `sample`, free at every step (00_scope.md R7).
DESIGN CHOICE, safe: log 1. -/
opaque Config.efInput (sample : Nat) (line : EfLine) : Bool

/-- `in.io_data` at the step numbered `sample`, free at every step (00_scope.md R7).
DESIGN CHOICE, safe: log 1. -/
opaque Config.ioInput (sample : Nat) : Byte

end Sys2Proof
end

