-- ==== Sys2Proof/Machine/State.lean ====
section
/-! DEFINITION. The state of the block (10_state.md), why a step can stop (60_exceptions.md R250),
and the state after reset (70_reset_and_hazards.md R280). -/

namespace Sys2Proof.Machine

/-- Why a step ends in an error handed to the host. Both are the spec's own, and neither changes the
state (60_exceptions.md R250). -/
inductive Fault where
  /-- `Halted`: a step was attempted with the halt latch set. Raised by `step`, before anything else
  (60_exceptions.md R251, R259). Safe: the spec's own error. -/
  | halted
  /-- `DecodeFault(a)`: the instruction whose opcode byte is at `a` needs bytes beyond 0xFFFF. Raised
  by `step` (60_exceptions.md R252). Safe: the spec's decision D8, log 7. -/
  | decodeFault (a : Addr)
deriving DecidableEq, Repr

/-- Why the model declines an instruction. No instruction of this hardware is declined. -/
inductive Refusal where
  /-- No meaning yet for the instruction of this mnemonic. Raised by no arm of `exec`. Safe. -/
  | notModelled (mnemonic : String)
deriving DecidableEq, Repr

/-- The input record of a step: EF1 to EF4 and the byte on the I/O data path
(40_step_cycle.md R100). -/
structure Input where
  ef1 : Bool
  ef2 : Bool
  ef3 : Bool
  ef4 : Bool
  ioData : Byte
deriving DecidableEq, Repr

/-- `Out(n, b)`: the byte `data` written to port `port` (48_io.md R243). -/
structure OutEvent where
  port : Port
  data : Byte
deriving DecidableEq, Repr

/-- The bytes written since the last reset, as (address, byte) pairs at strictly rising addresses. An
address that is not listed has no value of its own here: reading it gives the free value
`Config.memInit` (70_reset_and_hazards.md R283; log 3). -/
abbrev Memory := List Host.Cell

/-- The whole state. There is no program counter of its own: it is the register that `p` selects
(10_state.md R24). -/
structure State where
  /-- `R[0]` to `R[15]` (10_state.md R20). -/
  regs : Vector Addr 16
  /-- `D`, the accumulator (10_state.md R36). -/
  d : Byte
  /-- `DF`, the carry, inverted-borrow and shift-out flag (10_state.md R27). -/
  df : Bool
  /-- `P`, which register is the program counter (10_state.md R31). -/
  p : Nibble
  /-- `X`, which register is the index register (10_state.md R31). -/
  x : Nibble
  /-- `IE`, the inert interrupt-enable flag (10_state.md R29). -/
  ie : Bool
  /-- `Q`, the output flag (10_state.md R28). -/
  q : Bool
  /-- `T`, a saved (X, P) pair (10_state.md R33). -/
  t : Byte
  /-- The halt latch (10_state.md R34). -/
  halted : Bool
  /-- The cycle counter, unbounded (10_state.md R35). -/
  cycles : Nat
  /-- The instruction counter, unbounded (10_state.md R35). -/
  instrs : Nat
  /-- `M`, the 65536 bytes of memory (10_state.md R37). -/
  mem : Memory
  /-- The input records of the coming steps that are already fixed, the next step's first; after them
  every input is free (40_step_cycle.md R100, R111; log 1). -/
  inputs : List Input
  /-- The `Out` events emitted so far, oldest first (48_io.md R243; log 5). -/
  outs : List OutEvent
  /-- The model's own: how many steps have completed since power-on; it picks the free input record
  (log 1). No statement rests on its value. -/
  sample : Nat
  /-- The model's own: how many resets the host has applied since power-on; it picks the free `t_init`
  and `mem_init` (log 15). No statement rests on its value. -/
  epoch : Nat
deriving DecidableEq, Repr

/-- What executing an instruction, or a step, ends in. -/
abbrev Result := Host.Outcome State Fault Refusal

/-- The state that the reset numbered `epoch` leaves (70_reset_and_hazards.md R280). What lies outside
the block goes on through a reset: the coming input records, the steps counted for them, and the
events already emitted (log 15). -/
def State.afterReset (epoch sample : Nat) (inputs : List Input) (outs : List OutEvent) : State where
  regs := Vector.replicate 16 0x0000
  d := 0x00
  df := false
  p := 0
  x := 0
  ie := true
  q := false
  t := Config.tInit epoch
  halted := false
  cycles := 0
  instrs := 0
  mem := []
  inputs := inputs
  outs := outs
  sample := sample
  epoch := epoch

/-- Power-on: the first reset (10_state.md R41). -/
def State.reset : State := State.afterReset 0 0 [] []

end Sys2Proof.Machine
end

