-- ==== Sys2Proof/Machine/Ops.lean ====
section
/-! DEFINITION. The named operations over registers, flags and memory that every meaning uses. There
is no operation for taking an exception and none for returning from one: the block has no trap entry
and no trap return (60_exceptions.md R257). -/

namespace Sys2Proof.Machine

/-! ### Memory as data -/

/-- How many bytes the address space holds (20_memory.md R50). -/
def memorySize : Nat := 0x10000

/-- The byte listed at an address, if one is. -/
def Memory.lookup (m : Memory) (a : Nat) : Option Byte :=
  match m with
  | [] => none
  | (k, v) :: m => if k = a then some v else Memory.lookup m a

/-- List a byte at an address, in the place of the byte listed there before, if any. -/
def Memory.write (m : Memory) (a : Nat) (v : Byte) : Memory :=
  match m with
  | [] => [(a, v)]
  | (k, u) :: m =>
    if a < k then (a, v) :: (k, u) :: m
    else if a = k then (a, v) :: m
    else (k, u) :: Memory.write m a v

/-- Every listed address is at least `low` and below the end of memory, and they rise strictly. -/
def Memory.risesFrom (low : Nat) (m : Memory) : Bool :=
  match m with
  | [] => true
  | (k, _) :: m => decide (low ≤ k) && decide (k < memorySize) && Memory.risesFrom (k + 1) m

/-- The canonical form: strictly rising addresses, all of them inside the address space. An unlisted
address has no value of its own (log 3), so no entry can equal one, and two memories in this form
that list the same bytes are equal data. -/
def Memory.wf (m : Memory) : Bool := Memory.risesFrom 0 m

/-! ### Registers, flags and selectors -/

/-- `R[i]` (00_scope.md R9). -/
def State.reg (s : State) (i : Nibble) : Addr := s.regs[i.toNat]'i.isLt

/-- `R[i] <- v` (00_scope.md R9). -/
def State.setReg (s : State) (i : Nibble) (v : Addr) : State :=
  { s with regs := s.regs.set i.toNat v i.isLt }

/-- `pc`, the alias for `R[P]` (00_scope.md R9, 10_state.md R24). -/
def State.pc (s : State) : Addr := s.reg s.p

/-- `pc <- v`, that is `R[P] <- v` with the value `P` has now (00_scope.md R9). -/
def State.setPc (s : State) (v : Addr) : State := s.setReg s.p v

/-- `D <- b`. -/
def State.setD (s : State) (b : Byte) : State := { s with d := b }

/-- `DF <- c`. -/
def State.setDf (s : State) (c : Bool) : State := { s with df := c }

/-- `P <- n`. -/
def State.setP (s : State) (n : Nibble) : State := { s with p := n }

/-- `X <- n`. -/
def State.setX (s : State) (n : Nibble) : State := { s with x := n }

/-- `IE <- c`. -/
def State.setIe (s : State) (c : Bool) : State := { s with ie := c }

/-- `Q <- c`. -/
def State.setQ (s : State) (c : Bool) : State := { s with q := c }

/-- `T <- b`. -/
def State.setT (s : State) (b : Byte) : State := { s with t := b }

/-- `halted <- c`. -/
def State.setHalted (s : State) (c : Bool) : State := { s with halted := c }

/-- `R[i] <- (R[i] + 1) mod 65536` (10_state.md R22). -/
def State.incReg (s : State) (i : Nibble) : State := s.setReg i (s.reg i + 1)

/-- `R[i] <- (R[i] - 1) mod 65536` (10_state.md R22). -/
def State.decReg (s : State) (i : Nibble) : State := s.setReg i (s.reg i - 1)

/-! ### Memory accesses -/

/-- `MemRead(a, 1)`: the byte last written there since the last reset, else the free initial byte
(20_memory.md R58, 70_reset_and_hazards.md R283; log 3). Never faults (20_memory.md R51). -/
def State.readByte (s : State) (a : Addr) : Byte :=
  (s.mem.lookup a.toNat).getD (Config.memInit s.epoch a.toNat)

/-- `MemWrite(a, 1, v)` (00_scope.md R9). Never faults (20_memory.md R51). -/
def State.writeByte (s : State) (a : Addr) (v : Byte) : State :=
  { s with mem := s.mem.write a.toNat v }

/-! ### Input and output -/

/-- The input record of the step about to run or running: the first fixed one, else free values
(40_step_cycle.md R100; log 1). -/
def State.input (s : State) : Input :=
  match s.inputs with
  | i :: _ => i
  | [] =>
    { ef1 := Config.efInput s.sample .ef1
      ef2 := Config.efInput s.sample .ef2
      ef3 := Config.efInput s.sample .ef3
      ef4 := Config.efInput s.sample .ef4
      ioData := Config.ioInput s.sample }

/-- `in.ef[k]` (00_scope.md R7). -/
def State.ef (s : State) (line : EfLine) : Bool :=
  match line with
  | .ef1 => s.input.ef1
  | .ef2 => s.input.ef2
  | .ef3 => s.input.ef3
  | .ef4 => s.input.ef4

/-- `emit Out(port, b)` (48_io.md R243). -/
def State.emit (s : State) (port : Port) (b : Byte) : State :=
  { s with outs := s.outs ++ [⟨port, b⟩] }

/-! ### The parts of a step around the execute phase -/

/-- `R[P] <- (a + len) mod 65536`, before the instruction executes (40_step_cycle.md R104). -/
def State.advance (s : State) (len : Nat) : State := s.setPc (s.pc + BitVec.ofNat 16 len)

/-- The end of a successful step: both counters go up by one (40_step_cycle.md R108), and the step's
input record is used up (log 1). -/
def State.finishStep (s : State) : State :=
  { s with
    cycles := s.cycles + 1
    instrs := s.instrs + 1
    inputs := s.inputs.tail
    sample := s.sample + 1 }

end Sys2Proof.Machine
end

