-- ==== Sys2Proof/Machine/Flags.lean ====
section
/-! DEFINITION. The arithmetic, logic and shift results together with the `DF` they leave
(43_arithmetic.md R141, 44_logic_shift.md R159). Each computes exactly, then narrows. -/

namespace Sys2Proof.Machine

/-- `a + b + carry`: the low eight bits, and `DF = 1` exactly when the sum is 256 or more
(43_arithmetic.md R142, R144). -/
def addBytes (a b : Byte) (carry : Bool) : Byte × Bool :=
  let sum := a.toNat + b.toNat + carry.toNat
  (BitVec.ofNat 8 sum, decide (256 ≤ sum))

/-- `a - b - borrow`: the difference modulo 256, and `DF = 1` exactly when the true difference is not
negative, the inverted borrow (43_arithmetic.md R146, R148, R150, R152). -/
def subBytes (a b : Byte) (borrow : Bool) : Byte × Bool :=
  let diff : Int := (a.toNat : Int) - (b.toNat : Int) - (borrow.toNat : Int)
  (BitVec.ofInt 8 diff, decide (0 ≤ diff))

/-- One place to the right: `fill` becomes bit 7 and the old bit 0 becomes `DF`
(44_logic_shift.md R166, R167). -/
def shiftRightByte (a : Byte) (fill : Bool) : Byte × Bool :=
  ((BitVec.ofBool fill).setWidth 8 <<< 7 ||| a >>> 1, a.getLsbD 0)

/-- One place to the left: `fill` becomes bit 0 and the old bit 7 becomes `DF`
(44_logic_shift.md R168, R169). -/
def shiftLeftByte (a : Byte) (fill : Bool) : Byte × Bool :=
  (a <<< 1 ||| (BitVec.ofBool fill).setWidth 8, a.getLsbD 7)

/-- Write a result to `D` and its flag to `DF`, and nothing else (43_arithmetic.md R140,
44_logic_shift.md R159). -/
def State.setResult (s : State) (r : Byte × Bool) : State := (s.setD r.1).setDf r.2

end Sys2Proof.Machine
end

