-- ==== Sys2Proof/Machine/Operands.lean ====
section
/-! DEFINITION. The ways an instruction reaches its operand and its destination (20_memory.md R61).
Each reads the state whose program counter is already past the instruction (00_scope.md R10), so that
`X = P` and `N = P` need no case of their own (70_reset_and_hazards.md R290). -/

namespace Sys2Proof.Machine

/-- The address an `R[X]` operand is at (20_memory.md R61). -/
def State.indexAddr (s : State) : Addr := s.reg s.x

/-- The memory operand `MemRead(R[X], 1)` (43_arithmetic.md R140, 44_logic_shift.md R158). -/
def State.indexByte (s : State) : Byte := s.readByte s.indexAddr

/-- The register MARK pushes through (47_control.md R224). -/
def markPointer : Nibble := 2

/-- `D <- MemRead(R[i], 1)`. -/
def State.loadThrough (s : State) (i : Nibble) : State := s.setD (s.readByte (s.reg i))

/-- `MemWrite(R[i], 1, b)`. -/
def State.storeThrough (s : State) (i : Nibble) (b : Byte) : State := s.writeByte (s.reg i) b

/-- `X ++ P`, `X` in bits 7:4 and `P` in bits 3:0 (10_state.md R32). -/
def State.packXP (s : State) : Byte := joinNibbles s.x s.p

/-- Load `X` and `P` from a packed byte (10_state.md R32). -/
def State.unpackXP (s : State) (b : Byte) : State := (s.setX (highNibble b)).setP (lowNibble b)

/-! ### Control transfer -/

/-- A short branch: if taken, the immediate replaces the low byte of the advanced `pc`
(45_short_branch.md R180). -/
def State.shortBranch (s : State) (taken : Bool) (imm : Byte) : State :=
  if taken then s.setPc (joinBytes (highByte s.pc) imm) else s

/-- A long branch: if taken, the address replaces `pc` (46_long_branch_skip.md R200). -/
def State.longBranch (s : State) (taken : Bool) (addr : Addr) : State :=
  if taken then s.setPc addr else s

/-- A long skip: if it skips, `pc` moves past two more bytes (46_long_branch_skip.md R208). -/
def State.longSkip (s : State) (skips : Bool) : State :=
  if skips then s.setPc (s.pc + 2) else s

/-- The branch condition `D = 0`, computed when it is tested (10_state.md R30). -/
def State.dIsZero (s : State) : Bool := s.d == 0

end Sys2Proof.Machine
end

