-- ==== Sys2Proof/Machine/Arithmetic.lean ====
section
/-! DEFINITION. Arithmetic instructions (43_arithmetic.md). Each meaning is the execute
phase only: `pc` is already past the instruction and the counters are counted by the step
(00_scope.md R10). -/

namespace Sys2Proof.Machine

/-- ADD: `D + M[R[X]]` (R142). -/
def execAdd (s : State) : Result :=
  .next (s.setResult (addBytes s.d s.indexByte false))

/-- ADI: `D + imm` (R143). -/
def execAdi (imm : Byte) (s : State) : Result :=
  .next (s.setResult (addBytes s.d imm false))

/-- ADC: `D + M[R[X]] + DF` (R144). -/
def execAdc (s : State) : Result :=
  .next (s.setResult (addBytes s.d s.indexByte s.df))

/-- ADCI: `D + imm + DF` (R145). -/
def execAdci (imm : Byte) (s : State) : Result :=
  .next (s.setResult (addBytes s.d imm s.df))

/-- SD: `M[R[X]] - D` (R146). -/
def execSd (s : State) : Result :=
  .next (s.setResult (subBytes s.indexByte s.d false))

/-- SDI: `imm - D` (R147). -/
def execSdi (imm : Byte) (s : State) : Result :=
  .next (s.setResult (subBytes imm s.d false))

/-- SDB: `M[R[X]] - D - (1 - DF)` (R148). -/
def execSdb (s : State) : Result :=
  .next (s.setResult (subBytes s.indexByte s.d !s.df))

/-- SDBI: `imm - D - (1 - DF)` (R149). -/
def execSdbi (imm : Byte) (s : State) : Result :=
  .next (s.setResult (subBytes imm s.d !s.df))

/-- SM: `D - M[R[X]]` (R150). -/
def execSm (s : State) : Result :=
  .next (s.setResult (subBytes s.d s.indexByte false))

/-- SMI: `D - imm` (R151). -/
def execSmi (imm : Byte) (s : State) : Result :=
  .next (s.setResult (subBytes s.d imm false))

/-- SMB: `D - M[R[X]] - (1 - DF)` (R152). -/
def execSmb (s : State) : Result :=
  .next (s.setResult (subBytes s.d s.indexByte !s.df))

/-- SMBI: `D - imm - (1 - DF)` (R153). -/
def execSmbi (imm : Byte) (s : State) : Result :=
  .next (s.setResult (subBytes s.d imm !s.df))

end Sys2Proof.Machine
end

