-- ==== Sys2Proof/Machine/Control.lean ====
section
/-! DEFINITION. Control instructions (47_control.md). Each meaning is the execute
phase only: `pc` is already past the instruction and the counters are counted by the step
(00_scope.md R10). -/

namespace Sys2Proof.Machine

/-- IDL: sets the halt latch (R220). -/
def execIdl (s : State) : Result :=
  .next (s.setHalted true)

/-- SEQ: `Q <- 1` (R221). -/
def execSeq (s : State) : Result :=
  .next (s.setQ true)

/-- REQ: `Q <- 0` (R222). -/
def execReq (s : State) : Result :=
  .next (s.setQ false)

/-- SAV: `M[R[X]] <- T` (R223). -/
def execSav (s : State) : Result :=
  .next (s.storeThrough s.x s.t)

/-- MARK: `T <- X ++ P`, `M[R[2]] <- T`, `X <- P`, then `R[2]` goes down by one (R224). -/
def execMark (s : State) : Result :=
  .next ((((s.setT s.packXP).storeThrough markPointer s.packXP).setX s.p).decReg markPointer)

/-- What RET and DIS share: read the byte at `R[X]`, move `R[X]` past it, load `X` and `P` from it, and
set `IE` (R225, R226). -/
def State.loadXP (s : State) (ie : Bool) : State :=
  ((s.incReg s.x).unpackXP s.indexByte).setIe ie

/-- RET: load (X, P) through `R[X]`, `IE <- 1` (R225). -/
def execRet (s : State) : Result :=
  .next (s.loadXP true)

/-- DIS: load (X, P) through `R[X]`, `IE <- 0` (R226). -/
def execDis (s : State) : Result :=
  .next (s.loadXP false)

end Sys2Proof.Machine
end

