-- ==== Sys2Proof/Machine/InputOutput.lean ====
section
/-! DEFINITION. Input and output instructions (48_io.md). Each meaning is the execute
phase only: `pc` is already past the instruction and the counters are counted by the step
(00_scope.md R10). -/

namespace Sys2Proof.Machine

/-- OUT: emit `M[R[X]]` to the port, then `R[X]` goes up by one (R240). -/
def execOut (port : Port) (s : State) : Result :=
  .next ((s.emit port s.indexByte).incReg s.x)

/-- `b <- in.io_data`, `M[R[X]] <- b`, `D <- b` (R241). -/
def State.takeInput (s : State) : State := (s.storeThrough s.x s.input.ioData).setD s.input.ioData

/-- INP: take the input byte; the port number selects nothing inside the block (R241). Port 0 is byte
0x68 and does the same (R242; log 6). -/
def execInp (_port : Port) (s : State) : Result :=
  .next s.takeInput

end Sys2Proof.Machine
end

