-- ==== Sys2Proof/Machine/LogicShift.lean ====
section
/-! DEFINITION. Logic and shift instructions (44_logic_shift.md). Each meaning is the execute
phase only: `pc` is already past the instruction and the counters are counted by the step
(00_scope.md R10). -/

namespace Sys2Proof.Machine

/-- OR: `D | M[R[X]]` (R160). -/
def execOr (s : State) : Result :=
  .next (s.setD (s.d ||| s.indexByte))

/-- ORI: `D | imm` (R161). -/
def execOri (imm : Byte) (s : State) : Result :=
  .next (s.setD (s.d ||| imm))

/-- XOR: `D ^ M[R[X]]` (R162). -/
def execXor (s : State) : Result :=
  .next (s.setD (s.d ^^^ s.indexByte))

/-- XRI: `D ^ imm` (R163). -/
def execXri (imm : Byte) (s : State) : Result :=
  .next (s.setD (s.d ^^^ imm))

/-- AND: `D & M[R[X]]` (R164). -/
def execAnd (s : State) : Result :=
  .next (s.setD (s.d &&& s.indexByte))

/-- ANI: `D & imm` (R165). -/
def execAni (imm : Byte) (s : State) : Result :=
  .next (s.setD (s.d &&& imm))

/-- SHR: shift right, 0 into bit 7 (R166). -/
def execShr (s : State) : Result :=
  .next (s.setResult (shiftRightByte s.d false))

/-- SHRC: shift right, the old `DF` into bit 7 (R167). -/
def execShrc (s : State) : Result :=
  .next (s.setResult (shiftRightByte s.d s.df))

/-- SHL: shift left, 0 into bit 0 (R168). -/
def execShl (s : State) : Result :=
  .next (s.setResult (shiftLeftByte s.d false))

/-- SHLC: shift left, the old `DF` into bit 0 (R169). -/
def execShlc (s : State) : Result :=
  .next (s.setResult (shiftLeftByte s.d s.df))

end Sys2Proof.Machine
end

