-- ==== Sys2Proof/Machine/LongBranch.lean ====
section
/-! DEFINITION. Long branches, long skips and NOP (46_long_branch_skip.md). Each meaning is the execute
phase only: `pc` is already past the instruction and the counters are counted by the step
(00_scope.md R10). -/

namespace Sys2Proof.Machine

/-- LBR: always (R201). -/
def execLbr (addr : Addr) (s : State) : Result :=
  .next (s.longBranch true addr)

/-- LBQ: if `Q = 1` (R202). -/
def execLbq (addr : Addr) (s : State) : Result :=
  .next (s.longBranch s.q addr)

/-- LBZ: if `D = 0` (R203). -/
def execLbz (addr : Addr) (s : State) : Result :=
  .next (s.longBranch s.dIsZero addr)

/-- LBDF: if `DF = 1` (R204). -/
def execLbdf (addr : Addr) (s : State) : Result :=
  .next (s.longBranch s.df addr)

/-- LBNQ: if `Q = 0` (R205). -/
def execLbnq (addr : Addr) (s : State) : Result :=
  .next (s.longBranch (!s.q) addr)

/-- LBNZ: if `D` is not 0 (R206). -/
def execLbnz (addr : Addr) (s : State) : Result :=
  .next (s.longBranch (!s.dIsZero) addr)

/-- LBNF: if `DF = 0` (R207). -/
def execLbnf (addr : Addr) (s : State) : Result :=
  .next (s.longBranch (!s.df) addr)

/-- NOP: the long skip that never skips (R209). -/
def execNop (s : State) : Result :=
  .next (s.longSkip false)

/-- LSNQ: if `Q = 0` (R210). -/
def execLsnq (s : State) : Result :=
  .next (s.longSkip (!s.q))

/-- LSNZ: if `D` is not 0 (R211). -/
def execLsnz (s : State) : Result :=
  .next (s.longSkip (!s.dIsZero))

/-- LSNF: if `DF = 0` (R212). -/
def execLsnf (s : State) : Result :=
  .next (s.longSkip (!s.df))

/-- LSKP: always (R213). -/
def execLskp (s : State) : Result :=
  .next (s.longSkip true)

/-- LSIE: if `IE = 1` (R214). -/
def execLsie (s : State) : Result :=
  .next (s.longSkip s.ie)

/-- LSQ: if `Q = 1` (R215). -/
def execLsq (s : State) : Result :=
  .next (s.longSkip s.q)

/-- LSZ: if `D = 0` (R216). -/
def execLsz (s : State) : Result :=
  .next (s.longSkip s.dIsZero)

/-- LSDF: if `DF = 1` (R217). -/
def execLsdf (s : State) : Result :=
  .next (s.longSkip s.df)

end Sys2Proof.Machine
end

