-- ==== Sys2Proof/Machine/MemoryRef.lean ====
section
/-! DEFINITION. Memory reference instructions (41_memory_reference.md). Each meaning is the execute
phase only: `pc` is already past the instruction and the counters are counted by the step
(00_scope.md R10). -/

namespace Sys2Proof.Machine

/-- LDN: `D <- M[R[N]]` (R120). -/
def execLdn (n : Nibble) (s : State) : Result :=
  .next (s.loadThrough n)

/-- LDA: `D <- M[R[N]]`, then `R[N]` goes up by one (R121). -/
def execLda (n : Nibble) (s : State) : Result :=
  .next ((s.loadThrough n).incReg n)

/-- LDX: `D <- M[R[X]]` (R122). -/
def execLdx (s : State) : Result :=
  .next (s.loadThrough s.x)

/-- LDXA: `D <- M[R[X]]`, then `R[X]` goes up by one (R123). -/
def execLdxa (s : State) : Result :=
  .next ((s.loadThrough s.x).incReg s.x)

/-- LDI: `D <- imm` (R124). -/
def execLdi (imm : Byte) (s : State) : Result :=
  .next (s.setD imm)

/-- STR: `M[R[N]] <- D` (R125). -/
def execStr (n : Nibble) (s : State) : Result :=
  .next (s.storeThrough n s.d)

/-- STXD: `M[R[X]] <- D`, then `R[X]` goes down by one (R126). -/
def execStxd (s : State) : Result :=
  .next ((s.storeThrough s.x s.d).decReg s.x)

end Sys2Proof.Machine
end

