-- ==== Sys2Proof/Machine/RegisterOps.lean ====
section
/-! DEFINITION. Register operations (42_register_ops.md). Each meaning is the execute
phase only: `pc` is already past the instruction and the counters are counted by the step
(00_scope.md R10). -/

namespace Sys2Proof.Machine

/-- INC: `R[N]` goes up by one, modulo 65536 (R130). -/
def execInc (n : Nibble) (s : State) : Result :=
  .next (s.incReg n)

/-- DEC: `R[N]` goes down by one, modulo 65536 (R131). -/
def execDec (n : Nibble) (s : State) : Result :=
  .next (s.decReg n)

/-- IRX: `R[X]` goes up by one, modulo 65536 (R132). -/
def execIrx (s : State) : Result :=
  .next (s.incReg s.x)

/-- GLO: `D <- R[N].lo` (R133). -/
def execGlo (n : Nibble) (s : State) : Result :=
  .next (s.setD (lowByte (s.reg n)))

/-- GHI: `D <- R[N].hi` (R134). -/
def execGhi (n : Nibble) (s : State) : Result :=
  .next (s.setD (highByte (s.reg n)))

/-- PLO: `R[N].lo <- D` (R135). -/
def execPlo (n : Nibble) (s : State) : Result :=
  .next (s.setReg n (joinBytes (highByte (s.reg n)) s.d))

/-- PHI: `R[N].hi <- D` (R136). -/
def execPhi (n : Nibble) (s : State) : Result :=
  .next (s.setReg n (joinBytes s.d (lowByte (s.reg n))))

/-- SEP: `P <- N` (R137). -/
def execSep (n : Nibble) (s : State) : Result :=
  .next (s.setP n)

/-- SEX: `X <- N` (R138). -/
def execSex (n : Nibble) (s : State) : Result :=
  .next (s.setX n)

end Sys2Proof.Machine
end

