-- ==== Sys2Proof/Machine/ShortBranch.lean ====
section
/-! DEFINITION. Short branches and the short skip (45_short_branch.md). Each meaning is the execute
phase only: `pc` is already past the instruction and the counters are counted by the step
(00_scope.md R10). -/

namespace Sys2Proof.Machine

/-- BR: always (R182). -/
def execBr (imm : Byte) (s : State) : Result :=
  .next (s.shortBranch true imm)

/-- BQ: if `Q = 1` (R183). -/
def execBq (imm : Byte) (s : State) : Result :=
  .next (s.shortBranch s.q imm)

/-- BZ: if `D = 0` (R184). -/
def execBz (imm : Byte) (s : State) : Result :=
  .next (s.shortBranch s.dIsZero imm)

/-- BDF: if `DF = 1` (R185). -/
def execBdf (imm : Byte) (s : State) : Result :=
  .next (s.shortBranch s.df imm)

/-- B1: if EF1 = 1 (R186). -/
def execB1 (imm : Byte) (s : State) : Result :=
  .next (s.shortBranch (s.ef .ef1) imm)

/-- B2: if EF2 = 1 (R187). -/
def execB2 (imm : Byte) (s : State) : Result :=
  .next (s.shortBranch (s.ef .ef2) imm)

/-- B3: if EF3 = 1 (R188). -/
def execB3 (imm : Byte) (s : State) : Result :=
  .next (s.shortBranch (s.ef .ef3) imm)

/-- B4: if EF4 = 1 (R189). -/
def execB4 (imm : Byte) (s : State) : Result :=
  .next (s.shortBranch (s.ef .ef4) imm)

/-- SKP: `pc` moves past one more byte (R190). -/
def execSkp (s : State) : Result :=
  .next (s.incReg s.p)

/-- BNQ: if `Q = 0` (R191). -/
def execBnq (imm : Byte) (s : State) : Result :=
  .next (s.shortBranch (!s.q) imm)

/-- BNZ: if `D` is not 0 (R192). -/
def execBnz (imm : Byte) (s : State) : Result :=
  .next (s.shortBranch (!s.dIsZero) imm)

/-- BNF: if `DF = 0` (R193). -/
def execBnf (imm : Byte) (s : State) : Result :=
  .next (s.shortBranch (!s.df) imm)

/-- BN1: if EF1 = 0 (R194). -/
def execBn1 (imm : Byte) (s : State) : Result :=
  .next (s.shortBranch (!s.ef .ef1) imm)

/-- BN2: if EF2 = 0 (R195). -/
def execBn2 (imm : Byte) (s : State) : Result :=
  .next (s.shortBranch (!s.ef .ef2) imm)

/-- BN3: if EF3 = 0 (R196). -/
def execBn3 (imm : Byte) (s : State) : Result :=
  .next (s.shortBranch (!s.ef .ef3) imm)

/-- BN4: if EF4 = 0 (R197). -/
def execBn4 (imm : Byte) (s : State) : Result :=
  .next (s.shortBranch (!s.ef .ef4) imm)

end Sys2Proof.Machine
end

