-- ==== Sys2Proof/Syntax.lean ====
section
/-! DEFINITION. The instructions: one constructor per operation identifier of 30_encoding.md R80.
`n` is the register field `N`, `imm` the immediate byte, `addr` the absolute address and `port`
the port number `N & 7` (R70, R85). -/

namespace Sys2Proof

/-- A decoded instruction with the operands its operation uses (30_encoding.md R70, R80). -/
inductive Instr where
  /-- IDL, byte 0x00 (R220). -/
  | idl
  /-- LDN, byte 0x01..0x0F (R120). -/
  | ldn (n : Nibble)
  /-- INC, byte 0x10..0x1F (R130). -/
  | inc (n : Nibble)
  /-- DEC, byte 0x20..0x2F (R131). -/
  | dec (n : Nibble)
  /-- BR, byte 0x30 (R182). -/
  | br (imm : Byte)
  /-- BQ, byte 0x31 (R183). -/
  | bq (imm : Byte)
  /-- BZ, byte 0x32 (R184). -/
  | bz (imm : Byte)
  /-- BDF, byte 0x33 (R185). -/
  | bdf (imm : Byte)
  /-- B1, byte 0x34 (R186). -/
  | b1 (imm : Byte)
  /-- B2, byte 0x35 (R187). -/
  | b2 (imm : Byte)
  /-- B3, byte 0x36 (R188). -/
  | b3 (imm : Byte)
  /-- B4, byte 0x37 (R189). -/
  | b4 (imm : Byte)
  /-- SKP, byte 0x38 (R190). -/
  | skp
  /-- BNQ, byte 0x39 (R191). -/
  | bnq (imm : Byte)
  /-- BNZ, byte 0x3A (R192). -/
  | bnz (imm : Byte)
  /-- BNF, byte 0x3B (R193). -/
  | bnf (imm : Byte)
  /-- BN1, byte 0x3C (R194). -/
  | bn1 (imm : Byte)
  /-- BN2, byte 0x3D (R195). -/
  | bn2 (imm : Byte)
  /-- BN3, byte 0x3E (R196). -/
  | bn3 (imm : Byte)
  /-- BN4, byte 0x3F (R197). -/
  | bn4 (imm : Byte)
  /-- LDA, byte 0x40..0x4F (R121). -/
  | lda (n : Nibble)
  /-- STR, byte 0x50..0x5F (R125). -/
  | str (n : Nibble)
  /-- IRX, byte 0x60 (R132). -/
  | irx
  /-- OUT, byte 0x61..0x67 (R240). -/
  | out (port : Port)
  /-- INP, byte 0x68 (port 0), 0x69..0x6F (R241, R242). -/
  | inp (port : Port)
  /-- RET, byte 0x70 (R225). -/
  | ret
  /-- DIS, byte 0x71 (R226). -/
  | dis
  /-- LDXA, byte 0x72 (R123). -/
  | ldxa
  /-- STXD, byte 0x73 (R126). -/
  | stxd
  /-- ADC, byte 0x74 (R144). -/
  | adc
  /-- SDB, byte 0x75 (R148). -/
  | sdb
  /-- SHRC, byte 0x76 (R167). -/
  | shrc
  /-- SMB, byte 0x77 (R152). -/
  | smb
  /-- SAV, byte 0x78 (R223). -/
  | sav
  /-- MARK, byte 0x79 (R224). -/
  | mark
  /-- REQ, byte 0x7A (R222). -/
  | req
  /-- SEQ, byte 0x7B (R221). -/
  | seq
  /-- ADCI, byte 0x7C (R145). -/
  | adci (imm : Byte)
  /-- SDBI, byte 0x7D (R149). -/
  | sdbi (imm : Byte)
  /-- SHLC, byte 0x7E (R169). -/
  | shlc
  /-- SMBI, byte 0x7F (R153). -/
  | smbi (imm : Byte)
  /-- GLO, byte 0x80..0x8F (R133). -/
  | glo (n : Nibble)
  /-- GHI, byte 0x90..0x9F (R134). -/
  | ghi (n : Nibble)
  /-- PLO, byte 0xA0..0xAF (R135). -/
  | plo (n : Nibble)
  /-- PHI, byte 0xB0..0xBF (R136). -/
  | phi (n : Nibble)
  /-- LBR, byte 0xC0 (R201). -/
  | lbr (addr : Addr)
  /-- LBQ, byte 0xC1 (R202). -/
  | lbq (addr : Addr)
  /-- LBZ, byte 0xC2 (R203). -/
  | lbz (addr : Addr)
  /-- LBDF, byte 0xC3 (R204). -/
  | lbdf (addr : Addr)
  /-- NOP, byte 0xC4 (R209). -/
  | nop
  /-- LSNQ, byte 0xC5 (R210). -/
  | lsnq
  /-- LSNZ, byte 0xC6 (R211). -/
  | lsnz
  /-- LSNF, byte 0xC7 (R212). -/
  | lsnf
  /-- LSKP, byte 0xC8 (R213). -/
  | lskp
  /-- LBNQ, byte 0xC9 (R205). -/
  | lbnq (addr : Addr)
  /-- LBNZ, byte 0xCA (R206). -/
  | lbnz (addr : Addr)
  /-- LBNF, byte 0xCB (R207). -/
  | lbnf (addr : Addr)
  /-- LSIE, byte 0xCC (R214). -/
  | lsie
  /-- LSQ, byte 0xCD (R215). -/
  | lsq
  /-- LSZ, byte 0xCE (R216). -/
  | lsz
  /-- LSDF, byte 0xCF (R217). -/
  | lsdf
  /-- SEP, byte 0xD0..0xDF (R137). -/
  | sep (n : Nibble)
  /-- SEX, byte 0xE0..0xEF (R138). -/
  | sex (n : Nibble)
  /-- LDX, byte 0xF0 (R122). -/
  | ldx
  /-- OR, byte 0xF1 (R160). -/
  | or
  /-- AND, byte 0xF2 (R164). -/
  | and
  /-- XOR, byte 0xF3 (R162). -/
  | xor
  /-- ADD, byte 0xF4 (R142). -/
  | add
  /-- SD, byte 0xF5 (R146). -/
  | sd
  /-- SHR, byte 0xF6 (R166). -/
  | shr
  /-- SM, byte 0xF7 (R150). -/
  | sm
  /-- LDI, byte 0xF8 (R124). -/
  | ldi (imm : Byte)
  /-- ORI, byte 0xF9 (R161). -/
  | ori (imm : Byte)
  /-- ANI, byte 0xFA (R165). -/
  | ani (imm : Byte)
  /-- XRI, byte 0xFB (R163). -/
  | xri (imm : Byte)
  /-- ADI, byte 0xFC (R143). -/
  | adi (imm : Byte)
  /-- SDI, byte 0xFD (R147). -/
  | sdi (imm : Byte)
  /-- SHL, byte 0xFE (R168). -/
  | shl
  /-- SMI, byte 0xFF (R151). -/
  | smi (imm : Byte)
deriving DecidableEq, Repr

end Sys2Proof
end

