-- ==== Sys2Proof/Machine/Dispatch.lean ====
section
/-! DEFINITION. The dispatch from an instruction to its meaning (40_step_cycle.md R105): one arm for each
operation identifier of 30_encoding.md R80. -/

namespace Sys2Proof.Machine

def exec (i : Instr) (s : State) : Host.Outcome State Fault Refusal :=
  match i with
  | .idl => Sys2Proof.Machine.execIdl s
  | .ldn n => Sys2Proof.Machine.execLdn n s
  | .inc n => Sys2Proof.Machine.execInc n s
  | .dec n => Sys2Proof.Machine.execDec n s
  | .br imm => Sys2Proof.Machine.execBr imm s
  | .bq imm => Sys2Proof.Machine.execBq imm s
  | .bz imm => Sys2Proof.Machine.execBz imm s
  | .bdf imm => Sys2Proof.Machine.execBdf imm s
  | .b1 imm => Sys2Proof.Machine.execB1 imm s
  | .b2 imm => Sys2Proof.Machine.execB2 imm s
  | .b3 imm => Sys2Proof.Machine.execB3 imm s
  | .b4 imm => Sys2Proof.Machine.execB4 imm s
  | .skp => Sys2Proof.Machine.execSkp s
  | .bnq imm => Sys2Proof.Machine.execBnq imm s
  | .bnz imm => Sys2Proof.Machine.execBnz imm s
  | .bnf imm => Sys2Proof.Machine.execBnf imm s
  | .bn1 imm => Sys2Proof.Machine.execBn1 imm s
  | .bn2 imm => Sys2Proof.Machine.execBn2 imm s
  | .bn3 imm => Sys2Proof.Machine.execBn3 imm s
  | .bn4 imm => Sys2Proof.Machine.execBn4 imm s
  | .lda n => Sys2Proof.Machine.execLda n s
  | .str n => Sys2Proof.Machine.execStr n s
  | .irx => Sys2Proof.Machine.execIrx s
  | .out port => Sys2Proof.Machine.execOut port s
  | .inp port => Sys2Proof.Machine.execInp port s
  | .ret => Sys2Proof.Machine.execRet s
  | .dis => Sys2Proof.Machine.execDis s
  | .ldxa => Sys2Proof.Machine.execLdxa s
  | .stxd => Sys2Proof.Machine.execStxd s
  | .adc => Sys2Proof.Machine.execAdc s
  | .sdb => Sys2Proof.Machine.execSdb s
  | .shrc => Sys2Proof.Machine.execShrc s
  | .smb => Sys2Proof.Machine.execSmb s
  | .sav => Sys2Proof.Machine.execSav s
  | .mark => Sys2Proof.Machine.execMark s
  | .req => Sys2Proof.Machine.execReq s
  | .seq => Sys2Proof.Machine.execSeq s
  | .adci imm => Sys2Proof.Machine.execAdci imm s
  | .sdbi imm => Sys2Proof.Machine.execSdbi imm s
  | .shlc => Sys2Proof.Machine.execShlc s
  | .smbi imm => Sys2Proof.Machine.execSmbi imm s
  | .glo n => Sys2Proof.Machine.execGlo n s
  | .ghi n => Sys2Proof.Machine.execGhi n s
  | .plo n => Sys2Proof.Machine.execPlo n s
  | .phi n => Sys2Proof.Machine.execPhi n s
  | .lbr addr => Sys2Proof.Machine.execLbr addr s
  | .lbq addr => Sys2Proof.Machine.execLbq addr s
  | .lbz addr => Sys2Proof.Machine.execLbz addr s
  | .lbdf addr => Sys2Proof.Machine.execLbdf addr s
  | .nop => Sys2Proof.Machine.execNop s
  | .lsnq => Sys2Proof.Machine.execLsnq s
  | .lsnz => Sys2Proof.Machine.execLsnz s
  | .lsnf => Sys2Proof.Machine.execLsnf s
  | .lskp => Sys2Proof.Machine.execLskp s
  | .lbnq addr => Sys2Proof.Machine.execLbnq addr s
  | .lbnz addr => Sys2Proof.Machine.execLbnz addr s
  | .lbnf addr => Sys2Proof.Machine.execLbnf addr s
  | .lsie => Sys2Proof.Machine.execLsie s
  | .lsq => Sys2Proof.Machine.execLsq s
  | .lsz => Sys2Proof.Machine.execLsz s
  | .lsdf => Sys2Proof.Machine.execLsdf s
  | .sep n => Sys2Proof.Machine.execSep n s
  | .sex n => Sys2Proof.Machine.execSex n s
  | .ldx => Sys2Proof.Machine.execLdx s
  | .or => Sys2Proof.Machine.execOr s
  | .and => Sys2Proof.Machine.execAnd s
  | .xor => Sys2Proof.Machine.execXor s
  | .add => Sys2Proof.Machine.execAdd s
  | .sd => Sys2Proof.Machine.execSd s
  | .shr => Sys2Proof.Machine.execShr s
  | .sm => Sys2Proof.Machine.execSm s
  | .ldi imm => Sys2Proof.Machine.execLdi imm s
  | .ori imm => Sys2Proof.Machine.execOri imm s
  | .ani imm => Sys2Proof.Machine.execAni imm s
  | .xri imm => Sys2Proof.Machine.execXri imm s
  | .adi imm => Sys2Proof.Machine.execAdi imm s
  | .sdi imm => Sys2Proof.Machine.execSdi imm s
  | .shl => Sys2Proof.Machine.execShl s
  | .smi imm => Sys2Proof.Machine.execSmi imm s

end Sys2Proof.Machine
end

