-- ==== Sys2Proof/WellFormed.lean ====
section
/-! DEFINITION. Which terms of `Instr` some word encodes (30_encoding.md R80, R82). -/

namespace Sys2Proof

/-- An instruction that some byte sequence decodes to. Only two operations lack an operand value:
byte 0x00 is IDL and not LDN with `N = 0`, byte 0x60 is IRX and not OUT with port 0 (R82). Every
other operand takes every value of its field (R80); INP with port 0 is byte 0x68 (R83). -/
def Instr.wf (i : Instr) : Bool :=
  match i with
  | .ldn n => n != 0
  | .out port => port != 0
  | .idl | .inc _ | .dec _ | .br _ | .bq _ | .bz _ | .bdf _ | .b1 _ | .b2 _ | .b3 _ | .b4 _
  | .skp | .bnq _ | .bnz _ | .bnf _ | .bn1 _ | .bn2 _ | .bn3 _ | .bn4 _ | .lda _ | .str _ | .irx
  | .inp _ | .ret | .dis | .ldxa | .stxd | .adc | .sdb | .shrc | .smb | .sav | .mark | .req
  | .seq | .adci _ | .sdbi _ | .shlc | .smbi _ | .glo _ | .ghi _ | .plo _ | .phi _ | .lbr _
  | .lbq _ | .lbz _ | .lbdf _ | .nop | .lsnq | .lsnz | .lsnf | .lskp | .lbnq _ | .lbnz _
  | .lbnf _ | .lsie | .lsq | .lsz | .lsdf | .sep _ | .sex _ | .ldx | .or | .and | .xor | .add
  | .sd | .shr | .sm | .ldi _ | .ori _ | .ani _ | .xri _ | .adi _ | .sdi _ | .shl | .smi _ => true

end Sys2Proof
end

