-- ==== Sys2Proof/Decode.lean ====
section
/-! DEFINITION. The decoder and the encoder, both written from the opcode map of 30_encoding.md
R80 and R81, and what the host reads them by. -/

namespace Sys2Proof

/-- `length(op)` in bytes (30_encoding.md R78). -/
def Instr.length (i : Instr) : Nat :=
  match i with
  | .idl | .ldn _ | .inc _ | .dec _ | .skp | .lda _ | .str _ | .irx | .out _ | .inp _ | .ret
  | .dis | .ldxa | .stxd | .adc | .sdb | .shrc | .smb | .sav | .mark | .req | .seq | .shlc
  | .glo _ | .ghi _ | .plo _ | .phi _ | .nop | .lsnq | .lsnz | .lsnf | .lskp | .lsie | .lsq
  | .lsz | .lsdf | .sep _ | .sex _ | .ldx | .or | .and | .xor | .add | .sd | .shr | .sm | .shl => 1
  | .br _ | .bq _ | .bz _ | .bdf _ | .b1 _ | .b2 _ | .b3 _ | .b4 _ | .bnq _ | .bnz _ | .bnf _
  | .bn1 _ | .bn2 _ | .bn3 _ | .bn4 _ | .adci _ | .sdbi _ | .smbi _ | .ldi _ | .ori _ | .ani _
  | .xri _ | .adi _ | .sdi _ | .smi _ => 2
  | .lbr _ | .lbq _ | .lbz _ | .lbdf _ | .lbnq _ | .lbnz _ | .lbnf _ => 3

/-- `mnemonic(op)`, the canonical text name (30_encoding.md R79, R80). -/
def Instr.mnemonic (i : Instr) : String :=
  match i with
  | .idl => "IDL"
  | .ldn _ => "LDN"
  | .inc _ => "INC"
  | .dec _ => "DEC"
  | .br _ => "BR"
  | .bq _ => "BQ"
  | .bz _ => "BZ"
  | .bdf _ => "BDF"
  | .b1 _ => "B1"
  | .b2 _ => "B2"
  | .b3 _ => "B3"
  | .b4 _ => "B4"
  | .skp => "SKP"
  | .bnq _ => "BNQ"
  | .bnz _ => "BNZ"
  | .bnf _ => "BNF"
  | .bn1 _ => "BN1"
  | .bn2 _ => "BN2"
  | .bn3 _ => "BN3"
  | .bn4 _ => "BN4"
  | .lda _ => "LDA"
  | .str _ => "STR"
  | .irx => "IRX"
  | .out _ => "OUT"
  | .inp _ => "INP"
  | .ret => "RET"
  | .dis => "DIS"
  | .ldxa => "LDXA"
  | .stxd => "STXD"
  | .adc => "ADC"
  | .sdb => "SDB"
  | .shrc => "SHRC"
  | .smb => "SMB"
  | .sav => "SAV"
  | .mark => "MARK"
  | .req => "REQ"
  | .seq => "SEQ"
  | .adci _ => "ADCI"
  | .sdbi _ => "SDBI"
  | .shlc => "SHLC"
  | .smbi _ => "SMBI"
  | .glo _ => "GLO"
  | .ghi _ => "GHI"
  | .plo _ => "PLO"
  | .phi _ => "PHI"
  | .lbr _ => "LBR"
  | .lbq _ => "LBQ"
  | .lbz _ => "LBZ"
  | .lbdf _ => "LBDF"
  | .nop => "NOP"
  | .lsnq => "LSNQ"
  | .lsnz => "LSNZ"
  | .lsnf => "LSNF"
  | .lskp => "LSKP"
  | .lbnq _ => "LBNQ"
  | .lbnz _ => "LBNZ"
  | .lbnf _ => "LBNF"
  | .lsie => "LSIE"
  | .lsq => "LSQ"
  | .lsz => "LSZ"
  | .lsdf => "LSDF"
  | .sep _ => "SEP"
  | .sex _ => "SEX"
  | .ldx => "LDX"
  | .or => "OR"
  | .and => "AND"
  | .xor => "XOR"
  | .add => "ADD"
  | .sd => "SD"
  | .shr => "SHR"
  | .sm => "SM"
  | .ldi _ => "LDI"
  | .ori _ => "ORI"
  | .ani _ => "ANI"
  | .xri _ => "XRI"
  | .adi _ => "ADI"
  | .sdi _ => "SDI"
  | .shl => "SHL"
  | .smi _ => "SMI"

/-- The three instruction formats (30_encoding.md R71), each with what is left to fill in once the
opcode byte is known: nothing (F1), the immediate (F2) or the address (F3). -/
inductive Form where
  | f1 (i : Instr)
  | f2 (mk : Byte → Instr)
  | f3 (mk : Addr → Instr)

/-- The length in bytes of an instruction of this format (30_encoding.md R70). -/
def Form.length (f : Form) : Nat :=
  match f with
  | .f1 _ => 1
  | .f2 _ => 2
  | .f3 _ => 3

/-- Row 3 of the opcode map: short branches and SKP (30_encoding.md R81). -/
def opcodeRow3 (b : Byte) : Form :=
  match (lowNibble b).toNat with
  | 0x0 => .f2 .br
  | 0x1 => .f2 .bq
  | 0x2 => .f2 .bz
  | 0x3 => .f2 .bdf
  | 0x4 => .f2 .b1
  | 0x5 => .f2 .b2
  | 0x6 => .f2 .b3
  | 0x7 => .f2 .b4
  | 0x8 => .f1 .skp
  | 0x9 => .f2 .bnq
  | 0xA => .f2 .bnz
  | 0xB => .f2 .bnf
  | 0xC => .f2 .bn1
  | 0xD => .f2 .bn2
  | 0xE => .f2 .bn3
  | _ => .f2 .bn4

/-- Row 6 of the opcode map: IRX, OUT, INP and the reserved byte 0x68, which decodes to INP with
port 0 (30_encoding.md R81, R83; log 6). Bit 3 of `N` separates OUT (0) from INP (1) (R85). -/
def opcodeRow6 (b : Byte) : Form :=
  if lowNibble b = 0 then .f1 .irx
  else if (lowNibble b).toNat < 8 then .f1 (.out (portField b))
  else .f1 (.inp (portField b))

/-- Row 7 of the opcode map (30_encoding.md R81). -/
def opcodeRow7 (b : Byte) : Form :=
  match (lowNibble b).toNat with
  | 0x0 => .f1 .ret
  | 0x1 => .f1 .dis
  | 0x2 => .f1 .ldxa
  | 0x3 => .f1 .stxd
  | 0x4 => .f1 .adc
  | 0x5 => .f1 .sdb
  | 0x6 => .f1 .shrc
  | 0x7 => .f1 .smb
  | 0x8 => .f1 .sav
  | 0x9 => .f1 .mark
  | 0xA => .f1 .req
  | 0xB => .f1 .seq
  | 0xC => .f2 .adci
  | 0xD => .f2 .sdbi
  | 0xE => .f1 .shlc
  | _ => .f2 .smbi

/-- Row C of the opcode map: long branches, long skips, NOP (30_encoding.md R81). -/
def opcodeRowC (b : Byte) : Form :=
  match (lowNibble b).toNat with
  | 0x0 => .f3 .lbr
  | 0x1 => .f3 .lbq
  | 0x2 => .f3 .lbz
  | 0x3 => .f3 .lbdf
  | 0x4 => .f1 .nop
  | 0x5 => .f1 .lsnq
  | 0x6 => .f1 .lsnz
  | 0x7 => .f1 .lsnf
  | 0x8 => .f1 .lskp
  | 0x9 => .f3 .lbnq
  | 0xA => .f3 .lbnz
  | 0xB => .f3 .lbnf
  | 0xC => .f1 .lsie
  | 0xD => .f1 .lsq
  | 0xE => .f1 .lsz
  | _ => .f1 .lsdf

/-- Row F of the opcode map (30_encoding.md R81). -/
def opcodeRowF (b : Byte) : Form :=
  match (lowNibble b).toNat with
  | 0x0 => .f1 .ldx
  | 0x1 => .f1 .or
  | 0x2 => .f1 .and
  | 0x3 => .f1 .xor
  | 0x4 => .f1 .add
  | 0x5 => .f1 .sd
  | 0x6 => .f1 .shr
  | 0x7 => .f1 .sm
  | 0x8 => .f2 .ldi
  | 0x9 => .f2 .ori
  | 0xA => .f2 .ani
  | 0xB => .f2 .xri
  | 0xC => .f2 .adi
  | 0xD => .f2 .sdi
  | 0xE => .f1 .shl
  | _ => .f2 .smi

/-- `decode_opcode`, total on all 256 bytes (30_encoding.md R77, R80, R81). -/
def opcodeForm (b : Byte) : Form :=
  match (highNibble b).toNat with
  | 0x0 => if lowNibble b = 0 then .f1 .idl else .f1 (.ldn (lowNibble b))
  | 0x1 => .f1 (.inc (lowNibble b))
  | 0x2 => .f1 (.dec (lowNibble b))
  | 0x3 => opcodeRow3 b
  | 0x4 => .f1 (.lda (lowNibble b))
  | 0x5 => .f1 (.str (lowNibble b))
  | 0x6 => opcodeRow6 b
  | 0x7 => opcodeRow7 b
  | 0x8 => .f1 (.glo (lowNibble b))
  | 0x9 => .f1 (.ghi (lowNibble b))
  | 0xA => .f1 (.plo (lowNibble b))
  | 0xB => .f1 (.phi (lowNibble b))
  | 0xC => opcodeRowC b
  | 0xD => .f1 (.sep (lowNibble b))
  | 0xE => .f1 (.sex (lowNibble b))
  | _ => opcodeRowF b

/-- Why `decode` returns none (30_encoding.md R72). No byte value is a reason: the opcode table is
total (R77, R84). -/
inductive DecodeError where
  /-- The byte sequence is empty. -/
  | noBytes
  /-- The operation of this opcode byte needs more bytes than there are. -/
  | tooShort (opcode : Byte)
deriving DecidableEq, Repr

/-- `decode` (30_encoding.md R72): the instruction that the bytes begin with, and the bytes after
it. The address is big-endian (R75). -/
def decode (bytes : List Byte) : Except DecodeError (Instr × List Byte) :=
  match bytes with
  | [] => .error .noBytes
  | b :: rest =>
    match opcodeForm b with
    | .f1 i => .ok (i, rest)
    | .f2 mk =>
      match rest with
      | imm :: rest => .ok (mk imm, rest)
      | [] => .error (.tooShort b)
    | .f3 mk =>
      match rest with
      | hi :: lo :: rest => .ok (mk (joinBytes hi lo), rest)
      | [_] | [] => .error (.tooShort b)

/-- The decoded record of 30_encoding.md R70: the register field is extracted from every opcode byte,
also for an operation that ignores it (R73); the immediate is present exactly for length 2 and the
address exactly for length 3. -/
structure DecodedRecord where
  instr : Instr
  n : Nibble
  imm : Option Byte
  addr : Option Addr
deriving DecidableEq, Repr

/-- `decode` with the whole record of R70 as its answer (30_encoding.md R72, R73, R74, R75). -/
def decodeRecord (bytes : List Byte) : Except DecodeError DecodedRecord :=
  match bytes with
  | [] => .error .noBytes
  | b :: rest =>
    match opcodeForm b with
    | .f1 i => .ok ⟨i, lowNibble b, none, none⟩
    | .f2 mk =>
      match rest with
      | imm :: _ => .ok ⟨mk imm, lowNibble b, some imm, none⟩
      | [] => .error (.tooShort b)
    | .f3 mk =>
      match rest with
      | hi :: lo :: _ => .ok ⟨mk (joinBytes hi lo), lowNibble b, none, some (joinBytes hi lo)⟩
      | [_] | [] => .error (.tooShort b)

/-- An opcode byte with its register field: `base | n` (30_encoding.md R86). -/
def withField (base : Byte) (n : Nibble) : Byte := base ||| n.setWidth 8

/-- An opcode byte with its port number: `base | port` (48_io.md R240, R241). -/
def withPort (base : Byte) (port : Port) : Byte := base ||| port.setWidth 8

/-- A three-byte instruction: the opcode byte and the address, high byte first
(30_encoding.md R71, R75). -/
def withAddress (opcode : Byte) (addr : Addr) : List Byte := [opcode, highByte addr, lowByte addr]

/-- The bytes of an instruction (30_encoding.md R71, R80). -/
def encode (i : Instr) : List Byte :=
  match i with
  | .idl => [0x00]
  | .ldn n => [withField 0x00 n]
  | .inc n => [withField 0x10 n]
  | .dec n => [withField 0x20 n]
  | .br imm => [0x30, imm]
  | .bq imm => [0x31, imm]
  | .bz imm => [0x32, imm]
  | .bdf imm => [0x33, imm]
  | .b1 imm => [0x34, imm]
  | .b2 imm => [0x35, imm]
  | .b3 imm => [0x36, imm]
  | .b4 imm => [0x37, imm]
  | .skp => [0x38]
  | .bnq imm => [0x39, imm]
  | .bnz imm => [0x3A, imm]
  | .bnf imm => [0x3B, imm]
  | .bn1 imm => [0x3C, imm]
  | .bn2 imm => [0x3D, imm]
  | .bn3 imm => [0x3E, imm]
  | .bn4 imm => [0x3F, imm]
  | .lda n => [withField 0x40 n]
  | .str n => [withField 0x50 n]
  | .irx => [0x60]
  | .out port => [withPort 0x60 port]
  | .inp port => [withPort 0x68 port]
  | .ret => [0x70]
  | .dis => [0x71]
  | .ldxa => [0x72]
  | .stxd => [0x73]
  | .adc => [0x74]
  | .sdb => [0x75]
  | .shrc => [0x76]
  | .smb => [0x77]
  | .sav => [0x78]
  | .mark => [0x79]
  | .req => [0x7A]
  | .seq => [0x7B]
  | .adci imm => [0x7C, imm]
  | .sdbi imm => [0x7D, imm]
  | .shlc => [0x7E]
  | .smbi imm => [0x7F, imm]
  | .glo n => [withField 0x80 n]
  | .ghi n => [withField 0x90 n]
  | .plo n => [withField 0xA0 n]
  | .phi n => [withField 0xB0 n]
  | .lbr addr => withAddress 0xC0 addr
  | .lbq addr => withAddress 0xC1 addr
  | .lbz addr => withAddress 0xC2 addr
  | .lbdf addr => withAddress 0xC3 addr
  | .nop => [0xC4]
  | .lsnq => [0xC5]
  | .lsnz => [0xC6]
  | .lsnf => [0xC7]
  | .lskp => [0xC8]
  | .lbnq addr => withAddress 0xC9 addr
  | .lbnz addr => withAddress 0xCA addr
  | .lbnf addr => withAddress 0xCB addr
  | .lsie => [0xCC]
  | .lsq => [0xCD]
  | .lsz => [0xCE]
  | .lsdf => [0xCF]
  | .sep n => [withField 0xD0 n]
  | .sex n => [withField 0xE0 n]
  | .ldx => [0xF0]
  | .or => [0xF1]
  | .and => [0xF2]
  | .xor => [0xF3]
  | .add => [0xF4]
  | .sd => [0xF5]
  | .shr => [0xF6]
  | .sm => [0xF7]
  | .ldi imm => [0xF8, imm]
  | .ori imm => [0xF9, imm]
  | .ani imm => [0xFA, imm]
  | .xri imm => [0xFB, imm]
  | .adi imm => [0xFC, imm]
  | .sdi imm => [0xFD, imm]
  | .shl => [0xFE]
  | .smi imm => [0xFF, imm]

/-- The longest instruction, in bytes (30_encoding.md R78). -/
def longestInstr : Nat := 3

/-- The bytes of an instruction whose bits are `w`, numbered as spec/opcode_table.json numbers them:
bit 0 is the least significant bit of the first byte, the second byte is bits 15..8 and the third
bits 23..16. Bits at and above `nbits` are 0. -/
def tableBytes (nbits w : Nat) : List Byte :=
  (List.range longestInstr).map fun k => BitVec.ofNat 8 ((w % 2 ^ nbits) / 2 ^ (8 * k))

/-- The instruction the decoder reads from the word `w` of an opcode-table row of `nbits` bits. -/
def decodeTableWord (nbits w : Nat) : Option Instr :=
  match decode (tableBytes nbits w) with
  | .ok (i, _) => some i
  | .error _ => none

end Sys2Proof
end

