-- ==== Sys2Proof/Machine/Fetch.lean ====
section
/-! DEFINITION. Fetching an instruction's bytes, and laying a word out where the next fetch reads
(40_step_cycle.md R102, 20_memory.md R56, R64). -/

namespace Sys2Proof.Machine

/-- The addresses of the instruction bytes that start at `a`: at most the longest instruction's, and
none beyond the top of memory, since a fetch does not wrap (20_memory.md R56). -/
def fetchAddrs (a : Addr) : List Addr :=
  (List.range (min longestInstr (memorySize - a.toNat))).map fun k => a + BitVec.ofNat 16 k

/-- The bytes `M[pc .. 0xFFFF]` that the decoder is given, as far as it looks (30_encoding.md R72). -/
def State.fetchBytes (s : State) : List Byte := (fetchAddrs s.pc).map s.readByte

/-- Fetch and decode at `pc` (40_step_cycle.md R102): the instruction, or none when it would extend
past the top of memory. -/
def State.fetch (s : State) : Option Instr :=
  match decode s.fetchBytes with
  | .ok (i, _) => some i
  | .error _ => none

/-- Store bytes at the addresses given, in order. -/
def State.writeBytes (s : State) (cells : List (Addr × Byte)) : State :=
  match cells with
  | [] => s
  | (a, b) :: cells => (s.writeByte a b).writeBytes cells

/-- Lay bytes out where the next fetch reads, as far as they fit below the top of memory. -/
def State.placeAtPc (s : State) (bytes : List Byte) : State :=
  s.writeBytes ((fetchAddrs s.pc).zip bytes)

end Sys2Proof.Machine
end

