-- ==== Sys2Proof/Machine/Step.lean ====
section
/-! DEFINITION. The one transition of the block (40_step_cycle.md R100 to R108). -/

namespace Sys2Proof.Machine

/-- One step: halt check (R101), fetch and decode (R102), advance (R104), execute (R105), count
(R108). A fault carries no state: the state is the one before the step (R107). -/
def step (s : State) : Host.Outcome State Fault Refusal :=
  if s.halted then .fault .halted
  else
    match s.fetch with
    | none => .fault (.decodeFault s.pc)
    | some i =>
      match exec i (s.advance i.length) with
      | .next t => .next t.finishStep
      | .fault f => .fault f
      | .refused r => .refused r

/-- The state with the word `w` of an opcode-table row of `nbits` bits stored at `pc`, where the next
step fetches; it changes memory only (log 11, log 19). -/
def State.withFetchWord (s : State) (nbits w : Nat) : State := s.placeAtPc (tableBytes nbits w)

end Sys2Proof.Machine
end

