-- ==== Sys2Proof/Machine/HostPort.lean ====
section
/-! DEFINITION. What the host may do to the block between steps (60_exceptions.md R260 to R263) and the
bulk run (40_step_cycle.md R111). None of this is part of `step`. -/

namespace Sys2Proof.Machine

/-- The errors a host operation can return; each leaves the state as it was (60_exceptions.md R250). -/
inductive HostError where
  /-- `OutOfBounds`: the program would extend past 0xFFFF (60_exceptions.md R253). -/
  | outOfBounds
  /-- `InvalidRegister`: the register index is not in 0..15 (60_exceptions.md R254). -/
  | invalidRegister
deriving DecidableEq, Repr

/-- Reset, at any time between steps (70_reset_and_hazards.md R280): `T` and memory are drawn anew
(R282, R283; log 15). -/
def State.hostReset (s : State) : State :=
  State.afterReset (s.epoch + 1) s.sample s.inputs s.outs

/-- The addresses `start`, `start + 1`, ... with the bytes that go there. -/
def programCells (start : Nat) (bytes : List Byte) : List (Addr × Byte) :=
  bytes.zipIdx.map fun (b, k) => (BitVec.ofNat 16 (start + k), b)

/-- `load_program(bytes, start)` (60_exceptions.md R261). -/
def State.loadProgram (s : State) (bytes : List Byte) (start : Nat) : Except HostError State :=
  if memorySize < start + bytes.length then .error .outOfBounds
  else .ok (s.writeBytes (programCells start bytes))

/-- The state elements the host's accessors reach (60_exceptions.md R262; log 12). A register is named
by a natural number, which may be no register. -/
inductive Element where
  | reg (i : Nat)
  | d
  | df
  | p
  | x
  | ie
  | q
  | t
  | halted
  | cycles
  | instrs
  | mem (a : Addr)
deriving DecidableEq, Repr

/-- Read one state element (60_exceptions.md R262). A register index outside 0..15 is an error
(R254). -/
def State.hostRead (s : State) (e : Element) : Except HostError Nat :=
  match e with
  | .reg i => if i < 16 then .ok (s.reg (BitVec.ofNat 4 i)).toNat else .error .invalidRegister
  | .d => .ok s.d.toNat
  | .df => .ok s.df.toNat
  | .p => .ok s.p.toNat
  | .x => .ok s.x.toNat
  | .ie => .ok s.ie.toNat
  | .q => .ok s.q.toNat
  | .t => .ok s.t.toNat
  | .halted => .ok s.halted.toNat
  | .cycles => .ok s.cycles
  | .instrs => .ok s.instrs
  | .mem a => .ok (s.readByte a).toNat

/-- The one-bit value `v` is truncated to (60_exceptions.md R262). -/
def truncateBit (v : Nat) : Bool := v % 2 == 1

/-- Force-set one state element, truncated to its width, and nothing else (60_exceptions.md R262). -/
def State.hostSet (s : State) (e : Element) (v : Nat) : Except HostError State :=
  match e with
  | .reg i =>
    if i < 16 then .ok (s.setReg (BitVec.ofNat 4 i) (BitVec.ofNat 16 v)) else .error .invalidRegister
  | .d => .ok (s.setD (BitVec.ofNat 8 v))
  | .df => .ok (s.setDf (truncateBit v))
  | .p => .ok (s.setP (BitVec.ofNat 4 v))
  | .x => .ok (s.setX (BitVec.ofNat 4 v))
  | .ie => .ok (s.setIe (truncateBit v))
  | .q => .ok (s.setQ (truncateBit v))
  | .t => .ok (s.setT (BitVec.ofNat 8 v))
  | .halted => .ok (s.setHalted (truncateBit v))
  | .cycles => .ok { s with cycles := v }
  | .instrs => .ok { s with instrs := v }
  | .mem a => .ok (s.writeByte a (BitVec.ofNat 8 v))

/-- What a bulk run ends with (40_step_cycle.md R111). -/
inductive RunEnd where
  /-- The halt latch is set or the budget is used up. -/
  | ok
  /-- A step returned this error. -/
  | err (f : Fault)
  /-- The model declined an instruction. No instruction of this hardware is declined. -/
  | declined (r : Refusal)
deriving DecidableEq, Repr

/-- `run(max)`: at most `max` successful steps, ending early when halted or on the first error
(40_step_cycle.md R111; log 18). -/
def State.run (s : State) (max : Nat) : State × RunEnd :=
  match max with
  | 0 => (s, .ok)
  | max + 1 =>
    if s.halted then (s, .ok)
    else
      match step s with
      | .next t => t.run max
      | .fault f => (s, .err f)
      | .refused r => (s, .declined r)

end Sys2Proof.Machine
end

