-- ==== Sys2Proof/Safety.lean ====
section
/-! DEFINITION. The terms claims are stated in: what a safe run is, what an instruction leaves
unchanged, and the state every step should be in. -/

namespace Sys2Proof

open Sys2Proof.Machine

/-- The bytes, whatever follows them, decode to `i` and are all of it (30_encoding.md R72). -/
def Encodes (bytes : List Byte) (i : Instr) : Prop :=
  ∀ rest : List Byte, decode (bytes ++ rest) = .ok (i, rest)

namespace Machine

/-! ### Frames -/

/-- The parts of the state beside the registers and memory that an execute phase can change. -/
inductive Part where
  | d
  | df
  | p
  | x
  | ie
  | q
  | t
  | halted
  | outs
deriving DecidableEq, Repr

/-- This part is as before. -/
def SamePart (part : Part) (s t : State) : Prop :=
  match part with
  | .d => t.d = s.d
  | .df => t.df = s.df
  | .p => t.p = s.p
  | .x => t.x = s.x
  | .ie => t.ie = s.ie
  | .q => t.q = s.q
  | .t => t.t = s.t
  | .halted => t.halted = s.halted
  | .outs => t.outs = s.outs

/-- Between `s` and `t` nothing changes but the named parts, the named registers and the bytes at the
named addresses. The program counter is one of the sixteen registers (10_state.md R24), so it is named
where an instruction writes it. The counters belong to the step (40_step_cycle.md R108); an execute
phase leaves them, the coming inputs and the model's own two counters alone. -/
structure ChangesOnly (parts : List Part) (regs : List Nibble) (stored : List Addr) (s t : State) :
    Prop where
  parts : ∀ part, part ∉ parts → SamePart part s t
  regs : ∀ n, n ∉ regs → t.reg n = s.reg n
  memory : ∀ a, a ∉ stored → t.readByte a = s.readByte a
  cycles : t.cycles = s.cycles
  instrs : t.instrs = s.instrs
  inputs : t.inputs = s.inputs
  sample : t.sample = s.sample
  epoch : t.epoch = s.epoch

/-- Execute the same instruction `k` times in a row, as far as it goes. -/
def repeatExec (i : Instr) (k : Nat) (s : State) : Result :=
  match k with
  | 0 => .next s
  | k + 1 =>
    match exec i s with
    | .next t => repeatExec i k t
    | .fault f => .fault f
    | .refused r => .refused r

/-- `D` holds the sum of `D`, a byte and a carry, and `DF` the carry out; nothing else changed
(43_arithmetic.md R141). -/
def SumInD (b : Byte) (carry : Nat) (s t : State) : Prop :=
  t.d.toNat = (s.d.toNat + b.toNat + carry) % 256 ∧
    (t.df = true ↔ 256 ≤ s.d.toNat + b.toNat + carry) ∧ ChangesOnly [.d, .df] [] [] s t

/-- `D` holds `a - b - borrow` and `DF` says that no borrow occurred; nothing else changed
(43_arithmetic.md R141). -/
def DifferenceInD (a b : Byte) (borrow : Nat) (s t : State) : Prop :=
  (t.d.toNat : Int) = ((a.toNat : Int) - (b.toNat : Int) - (borrow : Int)) % 256 ∧
    (t.df = true ↔ 0 ≤ (a.toNat : Int) - (b.toNat : Int) - (borrow : Int)) ∧
    ChangesOnly [.d, .df] [] [] s t

/-- The register that `P` selects holds the value `v`; nothing else changed. -/
def PcBecomes (v : Nat) (s t : State) : Prop :=
  (t.reg s.p).toNat = v ∧ ChangesOnly [] [s.p] [] s t

/-! ### Input records -/

/-- The state with other input records to come, and another free-input counter. -/
def State.withInputs (s : State) (inputs : List Input) (sample : Nat) : State :=
  { s with inputs := inputs, sample := sample }

/-- An outcome whose next state, if there is one, is changed by `f`. -/
def mapNext (f : State → State) (r : Result) : Result :=
  match r with
  | .next t => .next (f t)
  | .fault e => .fault e
  | .refused e => .refused e

/-! ### Host accesses -/

/-- The width of a state element, or none for the unbounded counters (10_state.md, summary table). -/
def Element.bits (e : Element) : Option Nat :=
  match e with
  | .reg _ => some 16
  | .d | .t | .mem _ => some 8
  | .p | .x => some 4
  | .df | .ie | .q | .halted => some 1
  | .cycles | .instrs => none

/-- A value truncated to the element's width (60_exceptions.md R262). -/
def Element.truncate (e : Element) (v : Nat) : Nat :=
  match e.bits with
  | some w => v % 2 ^ w
  | none => v

/-! ### Safe runs -/

/-- The bytes of the instruction at `pc` all lie at or below 0xFFFF (20_memory.md R56). -/
def State.instrFits (s : State) : Prop :=
  s.pc.toNat + (opcodeForm (s.readByte s.pc)).length ≤ memorySize

/-- A step that is safe for a program to take: it succeeds, or the program has ended, which is what
`Halted` says (40_step_cycle.md R112, 93_implementation_defined.md U9). -/
def SafeStep (s : State) : Prop := (∃ t, step s = .next t) ∨ step s = .fault .halted

/-- A run of up to `k` steps that never meets `DecodeFault`. -/
def SafeRun (k : Nat) (s : State) : Prop :=
  match k with
  | 0 => True
  | k + 1 => SafeStep s ∧ ∀ t, step s = .next t → SafeRun k t

/-- What holds of every state a run from reset reaches while the host force-sets no counter: memory is
in canonical form, the two counters agree (10_state.md R35), and every event is on a port 1 to 7
(48_io.md R243). -/
structure State.Inv (s : State) : Prop where
  memory : s.mem.wf = true
  counters : s.cycles = s.instrs
  ports : ∀ e ∈ s.outs, e.port ≠ 0

end Machine

end Sys2Proof
end

