-- ==== Sys2Proof/Certificates/Slice0/Obligations.lean ====
section
/-! DEFINITION. The statements for the provers. Each docstring says which part of the spec it
formalises; where a clause rests on a choice of the spec or of the model, it names the log entry. -/

open Sys2Proof Sys2Proof.Machine

/-- O1. Decoding an encoded well-formed instruction gives it back, with its register field. For every
well-formed instruction, with every operand value, the bytes the encoder writes decode to that
instruction and leave exactly what follows them; and the record decoded from them holds the
instruction and the low nibble of the first byte as its register field. Cites: R86. -/
def Obligations.DecodeInvertsEncode : Prop :=
  ∀ i : Instr, i.wf = true →
    Encodes (encode i) i ∧
      ∃ b tail r, encode i = b :: tail ∧ decodeRecord (encode i) = .ok r ∧ r.instr = i ∧
        r.n.toNat = b.toNat % 16

/-- O2. Whatever decodes is well formed and its bytes are its encoding: every word has one meaning.
If a byte sequence decodes to an instruction and a rest, the instruction is well formed, the
sequence is the encoding of the instruction followed by the rest, and the encoding is as long as
length(op) says. Cites: 30_encoding.md sections 2 and 3 (decode contract, opcode map). -/
def Obligations.DecodedBytesAreTheirEncoding : Prop :=
  ∀ (bytes rest : List Byte) (i : Instr), decode bytes = .ok (i, rest) →
    i.wf = true ∧ bytes = encode i ++ rest ∧ (encode i).length = i.length

/-- O3. Decoding fails exactly when the byte slice is shorter than the operation needs. The empty
slice does not decode; a slice that begins with byte b fails to decode exactly when it has fewer
bytes than the length of the operation b selects; so three bytes always decode, whatever they
are. Cites: 30_encoding.md section 2 (decode contract), 30_encoding.md section 3 (totality of the
opcode table). -/
def Obligations.DecodeFailsExactlyOnShortSlices : Prop :=
  decode [] = .error .noBytes ∧
    (∀ (b : Byte) (rest : List Byte),
      (∃ e, decode (b :: rest) = .error e) ↔ rest.length + 1 < (opcodeForm b).length) ∧
    ∀ b0 b1 b2 : Byte, ∃ i rest, decode [b0, b1, b2] = .ok (i, rest)

/-- O4. The decoded record: register field always, immediate for length 2, big-endian address for
length 3. Of every record that decodes, the register field is the low nibble of the first byte,
whether or not the operation uses it; a length-1 operation has neither immediate nor address; a
length-2 operation has the second byte as its immediate and no address; a length-3 operation has
no immediate and the address 256 * second byte + third byte; and no other length occurs. Cites:
R70, R73, R75. -/
def Obligations.DecodedRecordFields : Prop :=
  ∀ (b : Byte) (rest : List Byte) (r : DecodedRecord), decodeRecord (b :: rest) = .ok r →
    r.n.toNat = b.toNat % 16 ∧
      ((r.instr.length = 1 ∧ r.imm = none ∧ r.addr = none) ∨
        (r.instr.length = 2 ∧ (∃ imm, rest[0]? = some imm ∧ r.imm = some imm) ∧ r.addr = none) ∨
        (r.instr.length = 3 ∧ r.imm = none ∧
          ∃ (hi lo : Byte) (addr : Addr), rest[0]? = some hi ∧ rest[1]? = some lo ∧
            r.addr = some addr ∧ addr.toNat = hi.toNat * 256 + lo.toNat))

/-- O5. The bytes of the spec's worked examples decode to the instructions they stand for. DOC
examples 1 and 2, instruction by instruction, and words of the arithmetic, logic and shift, long
branch, register and input and output families written out from the opcode map. The bytes 0xF8,
0xB5, 0xB3, 0x30 and 0x00 are in the examples; the other bytes are general knowledge (G1; log 9),
and that 0x68 is INP with port 0 is decision D2 (log 6). A sanity statement. Cites:
95_test_vectors.md part 1 (DOC examples 1 and 2), 30_encoding.md section 3 (opcode map),
92_eei_decisions.md D1 and D2, log 6 and log 9. -/
def Obligations.SpecExampleWordsDecode : Prop :=
  decodeTableWord 16 0x42F8 = some (.ldi 0x42) ∧ decodeTableWord 8 0xB5 = some (.phi 5) ∧
    decodeTableWord 8 0x00 = some .idl ∧ decodeTableWord 16 0x10F8 = some (.ldi 0x10) ∧
    decodeTableWord 8 0xB3 = some (.phi 3) ∧ decodeTableWord 16 0x0030 = some (.br 0x00) ∧
    decodeTableWord 8 0xF4 = some .add ∧ decodeTableWord 16 0x42FD = some (.sdi 0x42) ∧
    decodeTableWord 8 0xF3 = some .xor ∧ decodeTableWord 8 0x76 = some .shrc ∧
    decodeTableWord 24 0x3412C0 = some (.lbr 0x1234) ∧ decodeTableWord 8 0xCE = some .lsz ∧
    decodeTableWord 8 0x60 = some .irx ∧ decodeTableWord 8 0x64 = some (.out 4) ∧
    decodeTableWord 8 0x68 = some (.inp 0) ∧ decodeTableWord 8 0x6B = some (.inp 3)

/-- O6. A step entered with the halt latch set fails with Halted, and only reset or a host clear
leaves it. Every step from a halted state is the Halted fault, whatever else the state holds; it
carries no state, so nothing changes and it repeats. From a halted state, a load_program, a
force-set of any other element and a force-set of halted to 1 leave halted set. A reset, or the
host setting halted to 0, gives a state that is not halted. Cites: R251. -/
def Obligations.StepOfHaltedFails : Prop :=
  ∀ s : State, s.halted = true →
    step s = .fault .halted ∧
      (∀ bytes start t, s.loadProgram bytes start = .ok t → t.halted = true) ∧
      (∀ e v t, e ≠ .halted ∨ v = 1 → s.hostSet e v = .ok t → t.halted = true) ∧
      s.hostReset.halted = false ∧ ∃ t, s.hostSet .halted 0 = .ok t ∧ t.halted = false

/-- O7. When the bytes at pc decode to an instruction, the step is its execute phase on the advanced
state, then the count. In a state that is not halted whose fetched bytes decode to i, step is
exec of i on the state whose R[P] is moved past the instruction, with both counters then one
higher. Using up the step's input record is the model's choice (log 1). Cites: 40_step_cycle.md
section 1 (order of a successful step), log 1 (use of the input record: the model's choice). -/
def Obligations.StepRunsDecodedInstruction : Prop :=
  ∀ (s : State) (i : Instr) (rest : List Byte), s.halted = false →
    decode s.fetchBytes = .ok (i, rest) →
    step s =
      mapNext
        (fun t =>
          { t with
            cycles := t.cycles + 1
            instrs := t.instrs + 1
            inputs := t.inputs.tail
            sample := t.sample + 1 })
        (exec i (s.setReg s.p (s.reg s.p + BitVec.ofNat 16 i.length)))

/-- O8. The fetched bytes are memory at R[P] and after, cut at the top of memory without wrapping.
The bytes the decoder is given are those at pc, pc + 1 and pc + 2; at 0xFFFE only two of them and
at 0xFFFF only one. Giving the decoder three bytes whatever the length, where the spec allows
eager reading, is the model's choice (log 21); the cut is the spec's decision D8 (log 7). Cites:
20_memory.md section 2 (fetch at the top of memory), 40_step_cycle.md section 1 (fetch and
decode), 92_eei_decisions.md D8, log 7 and log 21. -/
def Obligations.FetchReadsBytesAtPc : Prop :=
  ∀ s : State,
    (s.pc.toNat ≤ 0xFFFD →
      s.fetchBytes = [s.readByte s.pc, s.readByte (s.pc + 1), s.readByte (s.pc + 2)]) ∧
    (s.pc.toNat = 0xFFFE → s.fetchBytes = [s.readByte 0xFFFE, s.readByte 0xFFFF]) ∧
    (s.pc.toNat = 0xFFFF → s.fetchBytes = [s.readByte 0xFFFF])

/-- O9. Every instruction executes in every state, and a step whose instruction decodes succeeds. For
every instruction and every state, exec answers a next state; and in a state that is not halted
whose fetched bytes decode to i, exec of i on the advanced state answers a next state u and the
step answers u with the counts added. Cites: R105. -/
def Obligations.ExecutionIsUnconditional : Prop :=
  (∀ (i : Instr) (s : State), ∃ t, exec i s = .next t) ∧
    ∀ (s : State) (i : Instr) (rest : List Byte), s.halted = false →
      decode s.fetchBytes = .ok (i, rest) →
      ∃ u, exec i (s.advance i.length) = .next u ∧ step s = .next u.finishStep

/-- O10. A running block faults exactly when its next instruction would extend past 0xFFFF, and
reports that address. From a state that is not halted, the step is a fault f exactly when f is
DecodeFault(pc) and pc plus the length that the byte at pc selects exceeds 0x10000. The spec's
decision D8 (log 7). Cites: 40_step_cycle.md section 1 (fetch and decode), 60_exceptions.md
section 1, 92_eei_decisions.md D8. -/
def Obligations.StepFaultsExactlyAtTop : Prop :=
  ∀ (s : State) (f : Fault), s.halted = false →
    (step s = .fault f ↔
      f = .decodeFault s.pc ∧ 0x10000 < s.pc.toNat + (opcodeForm (s.readByte s.pc)).length)

/-- O11. A step is safe exactly when the block is halted or its next instruction fits below the top
of memory. SafeStep (the step succeeds, or the program has ended) holds of a state exactly when
it is halted or the instruction at pc lies wholly at or below 0xFFFF. Rests on decision D8 (log
7) and on reading Halted as the end of a program (log 13). Cites: 40_step_cycle.md section 3 (end
of a run), 93_implementation_defined.md U6 and U9. -/
def Obligations.SafeStepExactly : Prop :=
  ∀ s : State, SafeStep s ↔ s.halted = true ∨ s.instrFits

/-- O12. Every successful step adds one to each counter, whatever the instruction. If a step answers
a next state, its cycle counter and its instruction counter are each exactly one higher; and a
step that fails answers no state, so it counts nothing. The step that executes IDL is one that
answers a next state. Cites: R108. -/
def Obligations.SuccessfulStepCountsOnce : Prop :=
  (∀ s t : State, step s = .next t → t.cycles = s.cycles + 1 ∧ t.instrs = s.instrs + 1) ∧
    ∀ s : State, s.halted = false → s.readByte s.pc = 0x00 → ∃ t, step s = .next t

/-- O13. Reset and power-on leave the values the spec gives. After power-on, and after a reset of any
state, every register is 0x0000, D is 0x00, P and X are 0, IE is 1, the block is not halted, and
both counters are 0. Cites: R41. -/
def Obligations.ResetValues : Prop :=
  ∀ s t : State, t = State.reset ∨ t = s.hostReset →
    (∀ n, t.reg n = 0) ∧ t.d = 0 ∧ t.p = 0 ∧ t.x = 0 ∧ t.ie = true ∧ t.halted = false ∧
      t.cycles = 0 ∧ t.instrs = 0

/-- O14. After reset the first fetch is at 0x0000 through R[0], which is also the index register; DF
and Q are 0. After any reset P is 0, so pc is R[0], and it holds 0x0000; X is P, so R[0] is the
register X selects too. DF = 0 and Q = 0 are the spec's decision D11 (log 4). Cites: 10_state.md
section 9, 70_reset_and_hazards.md section 1, 92_eei_decisions.md D11. -/
def Obligations.ResetEntryAndClearFlags : Prop :=
  ∀ s t : State, t = State.reset ∨ t = s.hostReset →
    t.p = 0 ∧ t.pc = 0x0000 ∧ t.x = t.p ∧ t.indexAddr = t.pc ∧ t.df = false ∧ t.q = false

/-- O15. IDL sets the halt latch, nothing but reset or a host clear clears it, and while it is set
every step fails. Executing IDL sets halted; executing anything else leaves halted as it was, and
so do a load_program and a force-set of any other element; a step from a halted state is the
Halted fault; a reset clears halted, and so does the host setting it to 0. Cites: R34. -/
def Obligations.HaltLatchIsOneWay : Prop :=
  ∀ s : State,
    (∃ t, exec .idl s = .next t ∧ t.halted = true) ∧
    (∀ (i : Instr) (t : State), exec i s = .next t → i ≠ .idl → t.halted = s.halted) ∧
    (∀ bytes start t, s.loadProgram bytes start = .ok t → t.halted = s.halted) ∧
    (∀ e v t, e ≠ .halted → s.hostSet e v = .ok t → t.halted = s.halted) ∧
    (s.halted = true → step s = .fault .halted) ∧ s.hostReset.halted = false ∧
    ∃ t, s.hostSet .halted 0 = .ok t ∧ t.halted = false

/-- O16. Only SEP, RET and DIS write P; only SEX, RET, DIS and MARK write X. If executing an
instruction changes P, it is SEP, RET or DIS; if it changes X, it is SEX, RET, DIS or MARK. RET,
DIS and MARK are the spec's general knowledge (log 9). Cites: 10_state.md section 5 (selectors). -/
def Obligations.SelectorWriters : Prop :=
  ∀ (i : Instr) (s t : State), exec i s = .next t →
    (t.p ≠ s.p → i.mnemonic ∈ ["SEP", "RET", "DIS"]) ∧
      (t.x ≠ s.x → i.mnemonic ∈ ["SEX", "RET", "DIS", "MARK"])

/-- O17. Which instructions can change D, DF, Q, IE and T. If executing an instruction changes DF it
is one of the twelve arithmetic or four shift instructions; if Q, SEQ or REQ; if IE, RET or DIS;
if T, MARK; if D, a load, GLO, GHI, an arithmetic, logic or shift instruction, or INP. Rests in
part on general-knowledge rules (log 9). Cites: 10_state.md sections 4 and 5 (DF, Q, IE, T),
10_state.md section 6 (D). -/
def Obligations.FlagAndSavedPairWriters : Prop :=
  ∀ (i : Instr) (s t : State), exec i s = .next t →
    (t.df ≠ s.df → i.mnemonic ∈ ["ADD", "ADI", "ADC", "ADCI", "SD", "SDI", "SDB", "SDBI", "SM",
      "SMI", "SMB", "SMBI", "SHR", "SHRC", "SHL", "SHLC"]) ∧
    (t.q ≠ s.q → i.mnemonic ∈ ["SEQ", "REQ"]) ∧
    (t.ie ≠ s.ie → i.mnemonic ∈ ["RET", "DIS"]) ∧
    (t.t ≠ s.t → i.mnemonic = "MARK") ∧
    (t.d ≠ s.d → i.mnemonic ∈ ["LDN", "LDA", "LDX", "LDXA", "LDI", "GLO", "GHI", "INP", "ADD", "ADI",
      "ADC", "ADCI", "SD", "SDI", "SDB", "SDBI", "SM", "SMI", "SMB", "SMBI", "OR", "ORI", "XOR",
      "XRI", "AND", "ANI", "SHR", "SHRC", "SHL", "SHLC"])

/-- O18. Memory changes only at the one byte a store instruction addresses. If executing an
instruction makes some address read differently, then the instruction is STR and the address is
R[N], or it is STXD, SAV or INP and the address is R[X], or it is MARK and the address is R[2],
all as they were before. STXD, SAV, INP and MARK are the spec's general knowledge (log 9). Cites:
20_memory.md sections 2 and 4 (one-byte accesses, addressing modes), 10_state.md section 1
(summary table). -/
def Obligations.OnlyStoresWriteMemory : Prop :=
  ∀ (i : Instr) (s t : State) (a : Addr), exec i s = .next t → t.readByte a ≠ s.readByte a →
    (∃ n, i = .str n ∧ a = s.reg n) ∨
      (i.mnemonic ∈ ["STXD", "SAV", "INP"] ∧ a = s.reg s.x) ∨ (i = .mark ∧ a = s.reg 2)

/-- O19. LDN, LDA, LDI and STR: encoding, effect and frame. LDN, with N from 1 to 15, loads D from
memory at R[N]; LDA, with any N, does too and adds 1 to R[N] modulo 65536; LDI loads the
immediate; STR stores D at R[N] and nowhere else. Each completes in every state and changes
nothing else. The byte values in the encoding clauses are the spec's own (30_encoding.md R80
marks them general knowledge, G1; log 9). Cites: R120, R121, R124, R125. -/
def Obligations.LoadAndStoreThroughN : Prop :=
  ∀ (s : State) (n : Nibble) (imm : Byte),
    (n ≠ 0 → Encodes [0x00 ||| n.setWidth 8] (.ldn n)) ∧
    Encodes [0x40 ||| n.setWidth 8] (.lda n) ∧ Encodes [0xF8, imm] (.ldi imm) ∧
    Encodes [0x50 ||| n.setWidth 8] (.str n) ∧
    (n ≠ 0 →
      ∃ t, exec (.ldn n) s = .next t ∧ t.d = s.readByte (s.reg n) ∧ ChangesOnly [.d] [] [] s t) ∧
    (∃ t, exec (.lda n) s = .next t ∧ t.d = s.readByte (s.reg n) ∧
      (t.reg n).toNat = ((s.reg n).toNat + 1) % 65536 ∧ ChangesOnly [.d] [n] [] s t) ∧
    (∃ t, exec (.ldi imm) s = .next t ∧ t.d = imm ∧ ChangesOnly [.d] [] [] s t) ∧
    ∃ t, exec (.str n) s = .next t ∧ t.readByte (s.reg n) = s.d ∧
      ChangesOnly [] [] [s.reg n] s t

/-- O20. LDX, LDXA and STXD: encoding, effect and frame. LDX loads D from memory at R[X]; LDXA does
too and adds 1 to R[X]; STXD stores D at the old R[X] and then subtracts 1 from R[X], both modulo
65536. Each completes in every state and changes nothing else. The spec marks these rules general
knowledge (G2; log 9). Cites: 41_memory_reference.md (LDX, LDXA, STXD), 92_eei_decisions.md D14. -/
def Obligations.LoadAndStoreThroughX : Prop :=
  ∀ s : State,
    Encodes [0xF0] .ldx ∧ Encodes [0x72] .ldxa ∧ Encodes [0x73] .stxd ∧
    (∃ t, exec .ldx s = .next t ∧ t.d = s.readByte (s.reg s.x) ∧ ChangesOnly [.d] [] [] s t) ∧
    (∃ t, exec .ldxa s = .next t ∧ t.d = s.readByte (s.reg s.x) ∧
      (t.reg s.x).toNat = ((s.reg s.x).toNat + 1) % 65536 ∧ ChangesOnly [.d] [s.x] [] s t) ∧
    ∃ t, exec .stxd s = .next t ∧ t.readByte (s.reg s.x) = s.d ∧
      (t.reg s.x).toNat = ((s.reg s.x).toNat + 65535) % 65536 ∧
      ChangesOnly [] [s.x] [s.reg s.x] s t

/-- O21. INC and DEC: encoding, 16-bit wraparound, and nothing else changed. INC adds 1 to R[N] and
DEC subtracts 1 from it, modulo 65536, in every state and for every N; no flag and nothing else
changes. The byte values in the encoding clauses are the spec's own (30_encoding.md R80 marks
them general knowledge, G1; log 9). Cites: R130, R131. -/
def Obligations.IncrementAndDecrementWrap : Prop :=
  ∀ (s : State) (n : Nibble),
    Encodes [0x10 ||| n.setWidth 8] (.inc n) ∧ Encodes [0x20 ||| n.setWidth 8] (.dec n) ∧
    (∃ t, exec (.inc n) s = .next t ∧ (t.reg n).toNat = ((s.reg n).toNat + 1) % 65536 ∧
      ChangesOnly [] [n] [] s t) ∧
    ∃ t, exec (.dec n) s = .next t ∧ (t.reg n).toNat = ((s.reg n).toNat + 65535) % 65536 ∧
      ChangesOnly [] [n] [] s t

/-- O22. PHI puts D in the high byte of R[N] and keeps the low byte. PHI, bytes 0xB0 to 0xBF, leaves
R[N] with D as its high byte and its old low byte, in every state; D and everything else is
unchanged. The byte values in the encoding clauses are the spec's own (30_encoding.md R80 marks
them general knowledge, G1; log 9). Cites: R136. -/
def Obligations.PhiPutsHighByte : Prop :=
  ∀ (s : State) (n : Nibble),
    Encodes [0xB0 ||| n.setWidth 8] (.phi n) ∧
    ∃ t, exec (.phi n) s = .next t ∧
      (t.reg n).toNat = s.d.toNat * 256 + (s.reg n).toNat % 256 ∧ ChangesOnly [] [n] [] s t

/-- O23. IRX, GLO, GHI, PLO, SEP and SEX: encoding, effect and frame. IRX adds 1 to R[X] modulo
65536; GLO and GHI load D with the low and the high byte of R[N]; PLO replaces the low byte of
R[N] by D; SEP and SEX set P and X to N. Each completes in every state and changes nothing else.
The spec marks which byte range and which half is which as general knowledge (G12; log 9). Cites:
42_register_ops.md (IRX, GLO, GHI, PLO, SEP, SEX), 93_implementation_defined.md G12. -/
def Obligations.ByteMovesAndSelectors : Prop :=
  ∀ (s : State) (n : Nibble),
    Encodes [0x60] .irx ∧ Encodes [0x80 ||| n.setWidth 8] (.glo n) ∧
    Encodes [0x90 ||| n.setWidth 8] (.ghi n) ∧ Encodes [0xA0 ||| n.setWidth 8] (.plo n) ∧
    Encodes [0xD0 ||| n.setWidth 8] (.sep n) ∧ Encodes [0xE0 ||| n.setWidth 8] (.sex n) ∧
    (∃ t, exec .irx s = .next t ∧ (t.reg s.x).toNat = ((s.reg s.x).toNat + 1) % 65536 ∧
      ChangesOnly [] [s.x] [] s t) ∧
    (∃ t, exec (.glo n) s = .next t ∧ t.d.toNat = (s.reg n).toNat % 256 ∧
      ChangesOnly [.d] [] [] s t) ∧
    (∃ t, exec (.ghi n) s = .next t ∧ t.d.toNat = (s.reg n).toNat / 256 ∧
      ChangesOnly [.d] [] [] s t) ∧
    (∃ t, exec (.plo n) s = .next t ∧
      (t.reg n).toNat = (s.reg n).toNat / 256 * 256 + s.d.toNat ∧ ChangesOnly [] [n] [] s t) ∧
    (∃ t, exec (.sep n) s = .next t ∧ t.p = n ∧ ChangesOnly [.p] [] [] s t) ∧
    ∃ t, exec (.sex n) s = .next t ∧ t.x = n ∧ ChangesOnly [.x] [] [] s t

/-- O24. A SEP step leaves the old program counter advanced and fetches next from R[N]. When the byte
at pc is 0xD0 | n and the block is not halted, the step succeeds, P becomes n, the register that
was the program counter holds its old value plus 1, and the next fetch address is that register's
value if n is the old P and R[n] otherwise. The byte range is general knowledge (G12; log 9).
Cites: 42_register_ops.md (SEP), 40_step_cycle.md section 1 (control transfers). -/
def Obligations.SepSwitchesProgramCounter : Prop :=
  ∀ (s : State) (n : Nibble), s.halted = false → s.readByte s.pc = 0xD0 ||| n.setWidth 8 →
    ∃ t, step s = .next t ∧ t.p = n ∧ t.reg s.p = s.pc + 1 ∧
      t.pc = if n = s.p then s.pc + 1 else s.reg n

/-- O25. ADD, ADI, ADC and ADCI: sums modulo 256, DF the carry out of either addition step. ADD and
ADI leave D + operand modulo 256 with DF = 1 exactly when the sum is 256 or more; ADC and ADCI
add the old DF as well, and their DF is the OR of the carries of the two addition steps. The
operand is memory at R[X], or the immediate. Each completes in every state and changes nothing
else. The byte values in the encoding clauses are the spec's own (30_encoding.md R80 marks them
general knowledge, G1; log 9). Cites: R142, R143, R144, R145. -/
def Obligations.AddLaws : Prop :=
  ∀ (s : State) (imm b : Byte), b = s.readByte (s.reg s.x) →
    Encodes [0xF4] .add ∧ Encodes [0xFC, imm] (.adi imm) ∧ Encodes [0x74] .adc ∧
    Encodes [0x7C, imm] (.adci imm) ∧
    (∃ t, exec .add s = .next t ∧ SumInD b 0 s t) ∧
    (∃ t, exec (.adi imm) s = .next t ∧ SumInD imm 0 s t) ∧
    (∃ t, exec .adc s = .next t ∧ SumInD b s.df.toNat s t ∧
      (t.df = true ↔ 256 ≤ s.d.toNat + b.toNat ∨
        256 ≤ (s.d.toNat + b.toNat) % 256 + s.df.toNat)) ∧
    ∃ t, exec (.adci imm) s = .next t ∧ SumInD imm s.df.toNat s t ∧
      (t.df = true ↔ 256 ≤ s.d.toNat + imm.toNat ∨
        256 ≤ (s.d.toNat + imm.toNat) % 256 + s.df.toNat)

/-- O26. SD, SDI, SM and SMI: differences modulo 256, DF = 1 when no borrow occurred. SD and SDI
leave operand minus D, SM and SMI leave D minus operand, modulo 256; DF = 1 exactly when the true
difference is not negative. The operand is memory at R[X], or the immediate. Each completes in
every state and changes nothing else. The byte values in the encoding clauses are the spec's own
(30_encoding.md R80 marks them general knowledge, G1; log 9). Cites: R146, R147, R150, R151. -/
def Obligations.SubtractLaws : Prop :=
  ∀ (s : State) (imm b : Byte), b = s.readByte (s.reg s.x) →
    Encodes [0xF5] .sd ∧ Encodes [0xFD, imm] (.sdi imm) ∧ Encodes [0xF7] .sm ∧
    Encodes [0xFF, imm] (.smi imm) ∧
    (∃ t, exec .sd s = .next t ∧ DifferenceInD b s.d 0 s t) ∧
    (∃ t, exec (.sdi imm) s = .next t ∧ DifferenceInD imm s.d 0 s t) ∧
    (∃ t, exec .sm s = .next t ∧ DifferenceInD s.d b 0 s t) ∧
    ∃ t, exec (.smi imm) s = .next t ∧ DifferenceInD s.d imm 0 s t

/-- O27. SDB, SDBI, SMB and SMBI subtract one more when DF is 0 on entry. The differences of the
subtract instructions with 1 - DF subtracted as well, DF = 1 exactly when the true difference is
not negative. Each completes in every state and changes nothing else. The spec marks these rules
general knowledge (G3; log 9). Cites: 43_arithmetic.md (SDB, SDBI, SMB, SMBI),
93_implementation_defined.md G3. -/
def Obligations.SubtractWithBorrowLaws : Prop :=
  ∀ (s : State) (imm b : Byte), b = s.readByte (s.reg s.x) →
    Encodes [0x75] .sdb ∧ Encodes [0x7D, imm] (.sdbi imm) ∧ Encodes [0x77] .smb ∧
    Encodes [0x7F, imm] (.smbi imm) ∧
    (∃ t, exec .sdb s = .next t ∧ DifferenceInD b s.d (1 - s.df.toNat) s t) ∧
    (∃ t, exec (.sdbi imm) s = .next t ∧ DifferenceInD imm s.d (1 - s.df.toNat) s t) ∧
    (∃ t, exec .smb s = .next t ∧ DifferenceInD s.d b (1 - s.df.toNat) s t) ∧
    ∃ t, exec (.smbi imm) s = .next t ∧ DifferenceInD s.d imm (1 - s.df.toNat) s t

/-- O28. OR, ORI, XOR, XRI, AND and ANI: bitwise results in D, every flag unchanged. The bitwise or,
exclusive or and and of D with memory at R[X], or with the immediate, goes to D; DF and
everything else is unchanged. Each completes in every state. The byte values in the encoding
clauses are the spec's own (30_encoding.md R80 marks them general knowledge, G1; log 9). Cites:
R160, R161, R162, R163, R164, R165. -/
def Obligations.LogicLeavesDf : Prop :=
  ∀ (s : State) (imm b : Byte), b = s.readByte (s.reg s.x) →
    Encodes [0xF1] .or ∧ Encodes [0xF9, imm] (.ori imm) ∧ Encodes [0xF3] .xor ∧
    Encodes [0xFB, imm] (.xri imm) ∧ Encodes [0xF2] .and ∧ Encodes [0xFA, imm] (.ani imm) ∧
    (∃ t, exec .or s = .next t ∧ t.d = s.d ||| b ∧ ChangesOnly [.d] [] [] s t) ∧
    (∃ t, exec (.ori imm) s = .next t ∧ t.d = s.d ||| imm ∧ ChangesOnly [.d] [] [] s t) ∧
    (∃ t, exec .xor s = .next t ∧ t.d = s.d ^^^ b ∧ ChangesOnly [.d] [] [] s t) ∧
    (∃ t, exec (.xri imm) s = .next t ∧ t.d = s.d ^^^ imm ∧ ChangesOnly [.d] [] [] s t) ∧
    (∃ t, exec .and s = .next t ∧ t.d = s.d &&& b ∧ ChangesOnly [.d] [] [] s t) ∧
    ∃ t, exec (.ani imm) s = .next t ∧ t.d = s.d &&& imm ∧ ChangesOnly [.d] [] [] s t

/-- O29. SHR, SHRC, SHL and SHLC: one place, the bit shifted out into DF; nine rotations restore DF
and D. SHR halves D, SHL doubles it modulo 256, SHRC and SHLC also put the old DF into the
vacated bit; DF becomes the bit shifted out. Each completes in every state and changes nothing
else. Nine SHRC, or nine SHLC, in a row restore DF and D. The byte values in the encoding clauses
are the spec's own (30_encoding.md R80 marks them general knowledge, G1; log 9). Cites: R166,
R167, R168, R169. -/
def Obligations.ShiftResults : Prop :=
  ∀ s : State,
    Encodes [0xF6] .shr ∧ Encodes [0x76] .shrc ∧ Encodes [0xFE] .shl ∧ Encodes [0x7E] .shlc ∧
    (∃ t, exec .shr s = .next t ∧ t.d.toNat = s.d.toNat / 2 ∧
      (t.df = true ↔ s.d.toNat % 2 = 1) ∧ ChangesOnly [.d, .df] [] [] s t) ∧
    (∃ t, exec .shrc s = .next t ∧ t.d.toNat = s.df.toNat * 128 + s.d.toNat / 2 ∧
      (t.df = true ↔ s.d.toNat % 2 = 1) ∧ ChangesOnly [.d, .df] [] [] s t) ∧
    (∃ t, exec .shl s = .next t ∧ t.d.toNat = s.d.toNat * 2 % 256 ∧
      (t.df = true ↔ 128 ≤ s.d.toNat) ∧ ChangesOnly [.d, .df] [] [] s t) ∧
    (∃ t, exec .shlc s = .next t ∧ t.d.toNat = s.d.toNat * 2 % 256 + s.df.toNat ∧
      (t.df = true ↔ 128 ≤ s.d.toNat) ∧ ChangesOnly [.d, .df] [] [] s t) ∧
    (∃ t, repeatExec .shrc 9 s = .next t ∧ t.d = s.d ∧ t.df = s.df) ∧
    ∃ t, repeatExec .shlc 9 s = .next t ∧ t.d = s.d ∧ t.df = s.df

/-- O30. BR, BQ, BZ, BDF, BNQ, BNZ and BNF replace only the low byte of the advanced pc, when their
condition holds. When its condition on Q, D or DF holds, the short branch leaves the register P
selects with its own high byte and the immediate as low byte; otherwise that register keeps its
value. The state is the one after the advance by 2, so its high byte is the advanced one, which
is the spec's decision D13 (90_conflicts.md C3; log 16). Each completes in every state and
changes nothing else. The byte values in the encoding clauses are the spec's own (30_encoding.md
R80 marks them general knowledge, G1; log 9). Cites: 45_short_branch.md section 1 (mechanism,
R180), 45_short_branch.md (BR, BQ, BZ, BDF, BNQ, BNZ, BNF), 90_conflicts.md C3,
92_eei_decisions.md D13, log 16. -/
def Obligations.ShortBranchesOnState : Prop :=
  ∀ (s : State) (imm : Byte),
    Encodes [0x30, imm] (.br imm) ∧
    Encodes [0x31, imm] (.bq imm) ∧
    Encodes [0x32, imm] (.bz imm) ∧
    Encodes [0x33, imm] (.bdf imm) ∧
    Encodes [0x39, imm] (.bnq imm) ∧
    Encodes [0x3A, imm] (.bnz imm) ∧
    Encodes [0x3B, imm] (.bnf imm) ∧
    (∃ t, exec (.br imm) s = .next t ∧
      PcBecomes (s.pc.toNat / 256 * 256 + imm.toNat) s t) ∧
    (∃ t, exec (.bq imm) s = .next t ∧
      PcBecomes (if s.q = true then s.pc.toNat / 256 * 256 + imm.toNat else s.pc.toNat) s t) ∧
    (∃ t, exec (.bz imm) s = .next t ∧
      PcBecomes (if s.d = 0 then s.pc.toNat / 256 * 256 + imm.toNat else s.pc.toNat) s t) ∧
    (∃ t, exec (.bdf imm) s = .next t ∧
      PcBecomes (if s.df = true then s.pc.toNat / 256 * 256 + imm.toNat else s.pc.toNat) s t) ∧
    (∃ t, exec (.bnq imm) s = .next t ∧
      PcBecomes (if s.q = false then s.pc.toNat / 256 * 256 + imm.toNat else s.pc.toNat) s t) ∧
    (∃ t, exec (.bnz imm) s = .next t ∧
      PcBecomes (if s.d ≠ 0 then s.pc.toNat / 256 * 256 + imm.toNat else s.pc.toNat) s t) ∧
    (∃ t, exec (.bnf imm) s = .next t ∧
      PcBecomes (if s.df = false then s.pc.toNat / 256 * 256 + imm.toNat else s.pc.toNat) s t)

/-- O31. B1 to B4 branch when their external flag is 1, BN1 to BN4 when it is 0, for every value of
the flags. Each of the eight branches as a short branch on the step's own external flag, whatever
its value; the flags of the step are those of the first input record already fixed, if there is
one (the model's choice, log 1), else free. Each completes in every state and changes nothing
else. The spec marks these rules general knowledge and decision D3 (log 9). Cites:
45_short_branch.md (B1 to B4, BN1 to BN4), 92_eei_decisions.md D3, log 1. -/
def Obligations.ShortBranchesOnInputs : Prop :=
  ∀ (s : State) (imm : Byte),
    Encodes [0x34, imm] (.b1 imm) ∧
    Encodes [0x35, imm] (.b2 imm) ∧
    Encodes [0x36, imm] (.b3 imm) ∧
    Encodes [0x37, imm] (.b4 imm) ∧
    Encodes [0x3C, imm] (.bn1 imm) ∧
    Encodes [0x3D, imm] (.bn2 imm) ∧
    Encodes [0x3E, imm] (.bn3 imm) ∧
    Encodes [0x3F, imm] (.bn4 imm) ∧
    (∀ r rest, s.inputs = r :: rest → s.ef .ef1 = r.ef1 ∧ s.ef .ef2 = r.ef2 ∧ s.ef .ef3 = r.ef3 ∧
      s.ef .ef4 = r.ef4) ∧
    (∃ t, exec (.b1 imm) s = .next t ∧
      PcBecomes (if s.ef .ef1 = true then s.pc.toNat / 256 * 256 + imm.toNat else s.pc.toNat) s t) ∧
    (∃ t, exec (.b2 imm) s = .next t ∧
      PcBecomes (if s.ef .ef2 = true then s.pc.toNat / 256 * 256 + imm.toNat else s.pc.toNat) s t) ∧
    (∃ t, exec (.b3 imm) s = .next t ∧
      PcBecomes (if s.ef .ef3 = true then s.pc.toNat / 256 * 256 + imm.toNat else s.pc.toNat) s t) ∧
    (∃ t, exec (.b4 imm) s = .next t ∧
      PcBecomes (if s.ef .ef4 = true then s.pc.toNat / 256 * 256 + imm.toNat else s.pc.toNat) s t) ∧
    (∃ t, exec (.bn1 imm) s = .next t ∧
      PcBecomes (if s.ef .ef1 = false then s.pc.toNat / 256 * 256 + imm.toNat else s.pc.toNat) s t) ∧
    (∃ t, exec (.bn2 imm) s = .next t ∧
      PcBecomes (if s.ef .ef2 = false then s.pc.toNat / 256 * 256 + imm.toNat else s.pc.toNat) s t) ∧
    (∃ t, exec (.bn3 imm) s = .next t ∧
      PcBecomes (if s.ef .ef3 = false then s.pc.toNat / 256 * 256 + imm.toNat else s.pc.toNat) s t) ∧
    (∃ t, exec (.bn4 imm) s = .next t ∧
      PcBecomes (if s.ef .ef4 = false then s.pc.toNat / 256 * 256 + imm.toNat else s.pc.toNat) s t)

/-- O32. A taken short branch lands in the page of the byte after it: the next page when its opcode
is at offset 0xFE or 0xFF. In a state that is not halted with the byte of one of the fifteen
short branches at pc, below 0xFFFF: if its condition on Q, D, DF or the step's external flags
holds, the step goes to the page of pc + 2 at the offset given by the byte after the opcode, and
that page is the branch's own page exactly when the opcode's offset is below 0xFE; if it does not
hold, pc moves by 2 modulo 65536. At 0xFFFF the step is DecodeFault(0xFFFF), taken or not. The
spec's decisions D13 (log 16) and D8 (log 7); the bytes but 0x30, and the external flags (D3),
are general knowledge (log 9), and the input record is the model's form (log 1). Cites:
45_short_branch.md section 1 (page corner cases), 45_short_branch.md (B1 to B4, BN1 to BN4),
90_conflicts.md C3 and C7, 92_eei_decisions.md D3, D8 and D13, log 1, log 7, log 9 and log 16. -/
def Obligations.ShortBranchPage : Prop :=
  ∀ (s : State) (opcode : Byte) (taken : Bool), s.halted = false → s.readByte s.pc = opcode →
    (opcode, taken) ∈ [((0x30 : Byte), true), (0x31, s.q), (0x32, s.d == 0), (0x33, s.df),
      (0x34, s.ef .ef1), (0x35, s.ef .ef2), (0x36, s.ef .ef3), (0x37, s.ef .ef4), (0x39, !s.q),
      (0x3A, s.d != 0), (0x3B, !s.df), (0x3C, !s.ef .ef1), (0x3D, !s.ef .ef2),
      (0x3E, !s.ef .ef3), (0x3F, !s.ef .ef4)] →
    (s.pc.toNat < 0xFFFF →
      ∃ t, step s = .next t ∧ t.p = s.p ∧
        (taken = true →
          t.pc.toNat =
              (s.pc.toNat + 2) % 65536 / 256 * 256 + (s.readByte (s.pc + 1)).toNat ∧
            (t.pc.toNat / 256 = s.pc.toNat / 256 ↔ s.pc.toNat % 256 < 0xFE)) ∧
        (taken = false → t.pc.toNat = (s.pc.toNat + 2) % 65536)) ∧
    (s.pc.toNat = 0xFFFF → step s = .fault (.decodeFault 0xFFFF))

/-- O33. LBQ, LBZ, LBDF, LBNQ, LBNZ and LBNF set all 16 bits of pc when their condition holds. When
its condition on Q, D or DF holds, the long branch leaves the register P selects equal to the
address, high byte first in the instruction; otherwise that register keeps its advanced value.
Each completes in every state and changes nothing else. The byte values in the encoding clauses
are the spec's own (30_encoding.md R80 marks them general knowledge, G1; log 9). Cites: R202,
R203, R204, R205, R206, R207. -/
def Obligations.LongBranchesOnState : Prop :=
  ∀ (s : State) (hi lo : Byte) (addr : Addr), addr.toNat = hi.toNat * 256 + lo.toNat →
    Encodes [0xC1, hi, lo] (.lbq addr) ∧
    Encodes [0xC2, hi, lo] (.lbz addr) ∧
    Encodes [0xC3, hi, lo] (.lbdf addr) ∧
    Encodes [0xC9, hi, lo] (.lbnq addr) ∧
    Encodes [0xCA, hi, lo] (.lbnz addr) ∧
    Encodes [0xCB, hi, lo] (.lbnf addr) ∧
    (∃ t, exec (.lbq addr) s = .next t ∧
      PcBecomes (if s.q = true then addr.toNat else s.pc.toNat) s t) ∧
    (∃ t, exec (.lbz addr) s = .next t ∧
      PcBecomes (if s.d = 0 then addr.toNat else s.pc.toNat) s t) ∧
    (∃ t, exec (.lbdf addr) s = .next t ∧
      PcBecomes (if s.df = true then addr.toNat else s.pc.toNat) s t) ∧
    (∃ t, exec (.lbnq addr) s = .next t ∧
      PcBecomes (if s.q = false then addr.toNat else s.pc.toNat) s t) ∧
    (∃ t, exec (.lbnz addr) s = .next t ∧
      PcBecomes (if s.d ≠ 0 then addr.toNat else s.pc.toNat) s t) ∧
    (∃ t, exec (.lbnf addr) s = .next t ∧
      PcBecomes (if s.df = false then addr.toNat else s.pc.toNat) s t)

/-- O34. LSNQ, LSNZ, LSNF, LSQ, LSZ and LSDF move pc two bytes on when the condition in their name
holds. When its condition on Q, D or DF holds, the long skip adds 2 modulo 65536 to the register
P selects, which is already past the one-byte instruction; otherwise that register keeps its
value. Each completes in every state and changes nothing else. The sense of the condition is the
spec's decision D15 (90_conflicts.md C1); the length of one byte and the skip that wraps are its
decision D7 (log 17). The byte values in the encoding clauses are the spec's own (30_encoding.md
R80 marks them general knowledge, G1; log 9). Cites: 46_long_branch_skip.md section 2 (long-skip
mechanism, R208), 46_long_branch_skip.md (LSNQ, LSNZ, LSNF, LSQ, LSZ, LSDF), 90_conflicts.md C1,
92_eei_decisions.md D7 and D15, log 17. -/
def Obligations.LongSkipsOnState : Prop :=
  ∀ s : State,
    Encodes [0xC5] .lsnq ∧
    Encodes [0xC6] .lsnz ∧
    Encodes [0xC7] .lsnf ∧
    Encodes [0xCD] .lsq ∧
    Encodes [0xCE] .lsz ∧
    Encodes [0xCF] .lsdf ∧
    (∃ t, exec .lsnq s = .next t ∧
      PcBecomes (if s.q = false then (s.pc.toNat + 2) % 65536 else s.pc.toNat) s t) ∧
    (∃ t, exec .lsnz s = .next t ∧
      PcBecomes (if s.d ≠ 0 then (s.pc.toNat + 2) % 65536 else s.pc.toNat) s t) ∧
    (∃ t, exec .lsnf s = .next t ∧
      PcBecomes (if s.df = false then (s.pc.toNat + 2) % 65536 else s.pc.toNat) s t) ∧
    (∃ t, exec .lsq s = .next t ∧
      PcBecomes (if s.q = true then (s.pc.toNat + 2) % 65536 else s.pc.toNat) s t) ∧
    (∃ t, exec .lsz s = .next t ∧
      PcBecomes (if s.d = 0 then (s.pc.toNat + 2) % 65536 else s.pc.toNat) s t) ∧
    (∃ t, exec .lsdf s = .next t ∧
      PcBecomes (if s.df = true then (s.pc.toNat + 2) % 65536 else s.pc.toNat) s t)

/-- O35. LBR, NOP, LSKP, SKP and LSIE: encoding, effect and frame. LBR sets pc to the address; NOP
changes nothing; SKP and LSKP add 1 and 2 to the advanced pc; LSIE adds 2 when IE = 1. Additions
are modulo 65536. Each completes in every state and changes nothing else. The spec marks these as
general knowledge or its decision D7 (log 9, log 17). Cites: 46_long_branch_skip.md (LBR, NOP,
LSKP, LSIE), 45_short_branch.md (SKP), 92_eei_decisions.md D7. -/
def Obligations.UnconditionalTransfersAndLsie : Prop :=
  ∀ (s : State) (hi lo : Byte) (addr : Addr), addr.toNat = hi.toNat * 256 + lo.toNat →
    Encodes [0xC0, hi, lo] (.lbr addr) ∧ Encodes [0xC4] .nop ∧ Encodes [0x38] .skp ∧
    Encodes [0xC8] .lskp ∧ Encodes [0xCC] .lsie ∧
    (∃ t, exec (.lbr addr) s = .next t ∧ PcBecomes addr.toNat s t) ∧
    exec .nop s = .next s ∧
    (∃ t, exec .skp s = .next t ∧ PcBecomes ((s.pc.toNat + 1) % 65536) s t) ∧
    (∃ t, exec .lskp s = .next t ∧ PcBecomes ((s.pc.toNat + 2) % 65536) s t) ∧
    (∃ t, exec .lsie s = .next t ∧
      PcBecomes (if s.ie = true then (s.pc.toNat + 2) % 65536 else s.pc.toNat) s t)

/-- O36. Each long skip skips exactly when its partner long branch does not branch. For each of the
seven pairs of a long branch and the skip four opcodes above it, in every state: either the
branch goes to the address and the skip does nothing, or the branch does nothing and the skip
moves pc by two. The spec's reading C1 and decision D15; LBR and NOP are general knowledge (log
9), and the skip of two bytes is decision D7 (log 17). Cites: 46_long_branch_skip.md section 2
(long-skip mechanism), 90_conflicts.md C1, 92_eei_decisions.md D15. -/
def Obligations.LongSkipComplementsLongBranch : Prop :=
  ∀ (s : State) (addr : Addr) (branch skip : Instr),
    (branch, skip) ∈ [(Instr.lbr addr, .nop),
      (Instr.lbq addr, .lsnq),
      (Instr.lbz addr, .lsnz),
      (Instr.lbdf addr, .lsnf),
      (Instr.lbnq addr, .lsq),
      (Instr.lbnz addr, .lsz),
      (Instr.lbnf addr, .lsdf)] →
    ∃ t u, exec branch s = .next t ∧ exec skip s = .next u ∧
      ((t = s.setReg s.p addr ∧ u = s) ∨ (t = s ∧ u = s.setReg s.p (s.pc + 2)))

/-- O37. IDL sets the halt latch and nothing else; its step succeeds, and every later step fails. IDL
is byte 0x00; it completes in every state, setting halted and nothing else. A step at a byte 0x00
in a state that is not halted succeeds with pc advanced by 1 modulo 65536, both counters one
higher and halted set; the step after it is the Halted fault. Cites: R220. -/
def Obligations.IdleHalts : Prop :=
  Encodes [0x00] .idl ∧
    (∀ s : State, ∃ t, exec .idl s = .next t ∧ t.halted = true ∧
      ChangesOnly [.halted] [] [] s t) ∧
    ∀ s : State, s.halted = false → s.readByte s.pc = 0x00 →
      ∃ t, step s = .next t ∧ t.halted = true ∧ t.p = s.p ∧
        (t.reg s.p).toNat = (s.pc.toNat + 1) % 65536 ∧ t.cycles = s.cycles + 1 ∧
        t.instrs = s.instrs + 1 ∧ step t = .fault .halted

/-- O38. SEQ sets Q, REQ clears it, and nothing else changes. SEQ leaves Q = 1 and REQ leaves Q = 0;
each completes in every state and changes nothing else. The byte values are general knowledge
(G12; log 9). Cites: 47_control.md (SEQ, REQ), 93_implementation_defined.md G12. -/
def Obligations.SetAndResetQ : Prop :=
  ∀ s : State,
    Encodes [0x7B] .seq ∧ Encodes [0x7A] .req ∧
    (∃ t, exec .seq s = .next t ∧ t.q = true ∧ ChangesOnly [.q] [] [] s t) ∧
    ∃ t, exec .req s = .next t ∧ t.q = false ∧ ChangesOnly [.q] [] [] s t

/-- O39. SAV stores T at R[X]; MARK saves X and P in T and at R[2], copies P to X and decrements
R[2]. SAV stores T at R[X] and changes nothing else. MARK leaves T = 16 * X + P, stores that byte
at the old R[2], sets X to P and subtracts 1 from R[2] modulo 65536, and changes nothing else.
Each completes in every state. The spec marks these rules general knowledge (G4, D4; log 9).
Cites: 47_control.md (SAV, MARK), 92_eei_decisions.md D4. -/
def Obligations.SaveAndMark : Prop :=
  ∀ s : State,
    Encodes [0x78] .sav ∧ Encodes [0x79] .mark ∧
    (∃ t, exec .sav s = .next t ∧ t.readByte (s.reg s.x) = s.t ∧
      ChangesOnly [] [] [s.reg s.x] s t) ∧
    ∃ t, exec .mark s = .next t ∧ t.t.toNat = s.x.toNat * 16 + s.p.toNat ∧
      t.readByte (s.reg 2) = t.t ∧ t.x = s.p ∧
      (t.reg 2).toNat = ((s.reg 2).toNat + 65535) % 65536 ∧
      ChangesOnly [.t, .x] [2] [s.reg 2] s t

/-- O40. RET and DIS load X and P from the byte at R[X], increment R[X], and set or clear IE. With b
the byte at R[X]: X becomes b / 16, P becomes b modulo 16, the register the old X selects goes up
by 1 modulo 65536, and IE becomes 1 (RET) or 0 (DIS). Each completes in every state and changes
nothing else. The spec marks these rules general knowledge (G5, D6; log 9). Cites: 47_control.md
(RET, DIS), 92_eei_decisions.md D6. -/
def Obligations.ReturnAndDisable : Prop :=
  ∀ (s : State) (b : Byte), b = s.readByte (s.reg s.x) →
    Encodes [0x70] .ret ∧ Encodes [0x71] .dis ∧
    (∃ t, exec .ret s = .next t ∧ t.x.toNat = b.toNat / 16 ∧ t.p.toNat = b.toNat % 16 ∧
      (t.reg s.x).toNat = ((s.reg s.x).toNat + 1) % 65536 ∧ t.ie = true ∧
      ChangesOnly [.x, .p, .ie] [s.x] [] s t) ∧
    ∃ t, exec .dis s = .next t ∧ t.x.toNat = b.toNat / 16 ∧ t.p.toNat = b.toNat % 16 ∧
      (t.reg s.x).toNat = ((s.reg s.x).toNat + 1) % 65536 ∧ t.ie = false ∧
      ChangesOnly [.x, .p, .ie] [s.x] [] s t

/-- O41. What MARK pushed, INC R2, SEX R2 and RET take back: X and P are as before. From every state,
executing MARK, INC 2, SEX 2 and RET in a row completes, restores X and P, leaves R[2] one higher
than at the start, and sets IE. Rests on general-knowledge rules (G4, G5; log 9). Cites:
47_control.md (MARK, RET), 42_register_ops.md (INC, SEX). -/
def Obligations.MarkThenReturnRestoresSelectors : Prop :=
  ∀ s : State, ∃ a b c t,
    exec .mark s = .next a ∧ exec (.inc 2) a = .next b ∧ exec (.sex 2) b = .next c ∧
      exec .ret c = .next t ∧ t.x = s.x ∧ t.p = s.p ∧ t.reg 2 = s.reg 2 + 1 ∧ t.ie = true

/-- O42. OUT emits the byte at R[X] and increments R[X]; INP stores the input byte at R[X] and in D,
port 0 too. OUT with port 1 to 7 appends the event (port, byte at R[X]) to the events emitted and
adds 1 to R[X] modulo 65536; INP with port 0 to 7, byte 0x68 being port 0, stores the step's
input byte at R[X] and in D. Each completes in every state and changes nothing else. The spec
marks these rules general knowledge and decisions D2 and D5 (log 6, log 9); the list of events
and the input records are the model's form (log 1, log 5). Cites: 48_io.md (OUT, INP, byte 0x68),
92_eei_decisions.md D2 and D5, log 1 and log 5. -/
def Obligations.OutputAndInput : Prop :=
  ∀ (s : State) (port : Port),
    (port ≠ 0 → Encodes [0x60 ||| port.setWidth 8] (.out port)) ∧
    Encodes [0x68 ||| port.setWidth 8] (.inp port) ∧
    (∀ r rest, s.inputs = r :: rest → s.input = r) ∧
    (port ≠ 0 →
      ∃ t, exec (.out port) s = .next t ∧
        t.outs = s.outs ++ [⟨port, s.readByte (s.reg s.x)⟩] ∧
        (t.reg s.x).toNat = ((s.reg s.x).toNat + 1) % 65536 ∧
        ChangesOnly [.outs] [s.x] [] s t) ∧
    ∃ t, exec (.inp port) s = .next t ∧ t.d = s.input.ioData ∧
      t.readByte (s.reg s.x) = s.input.ioData ∧ ChangesOnly [.d] [] [s.reg s.x] s t

/-- O43. A step emits at most one event, and only an OUT emits one. If a step succeeds, the events
emitted are those before it, or those before it and one more, which is the port of an OUT
instruction that was fetched and the byte R[X] pointed to after the advance. The list of events
is the model's form (log 5). Cites: 48_io.md (port interface), 92_eei_decisions.md D5, log 5. -/
def Obligations.OnlyOutEmits : Prop :=
  ∀ s t : State, step s = .next t →
    t.outs = s.outs ∨
      ∃ (port : Port) (u : State), s.fetch = some (.out port) ∧ u = s.advance 1 ∧
        t.outs = s.outs ++ [⟨port, u.readByte (u.reg u.x)⟩]

/-- O44. Only B1 to B4, BN1 to BN4 and INP can see the input record. For every other instruction,
executing it in a state with other inputs to come gives the same outcome with those inputs to
come: nothing the environment supplies can influence it. The input list and the sample counter
are the model's form of the input record (log 1). Cites: 00_scope.md section 4 (parameters),
40_step_cycle.md section 1 (determinism), log 1. -/
def Obligations.InputSeenOnlyByEfBranchesAndInp : Prop :=
  ∀ (i : Instr) (s : State) (inputs : List Input) (sample : Nat),
    i.mnemonic ∉ ["B1", "B2", "B3", "B4", "BN1", "BN2", "BN3", "BN4", "INP"] →
    exec i (s.withInputs inputs sample) = mapNext (·.withInputs inputs sample) (exec i s)

/-- O45. IE is inert: only LSIE can tell its value. For every instruction but LSIE, executing it with
either value of IE completes and gives states that differ at most in IE. The spec's decision D6
and general knowledge (log 9). Cites: 10_state.md section 4 (IE), 60_exceptions.md section 2,
92_eei_decisions.md D6. -/
def Obligations.IeSteersOnlyLsie : Prop :=
  ∀ (i : Instr) (s : State) (c : Bool), i ≠ .lsie →
    ∃ t u, exec i s = .next t ∧ exec i { s with ie := c } = .next u ∧ { u with ie := t.ie } = t

/-- O46. Only SAV can see T, so only SAV can see the unspecified value T has after reset. For every
instruction but SAV, executing it with any other byte in T completes and gives states that differ
at most in T. T is the spec's own addition (D4; log 2, log 9). Cites: 10_state.md section 5 (T),
70_reset_and_hazards.md section 1 (T after reset). -/
def Obligations.SavedPairSeenOnlyBySav : Prop :=
  ∀ (i : Instr) (s : State) (b : Byte), i ≠ .sav →
    ∃ t u, exec i s = .next t ∧ exec i { s with t := b } = .next u ∧ { u with t := t.t } = t

/-- O47. No instruction reads the counters. Executing any instruction with other values in the two
counters completes and gives states that differ only in those counters, which the execute phase
leaves alone. Cites: 10_state.md section 5 (counters), 60_exceptions.md section 6 (counters). -/
def Obligations.CountersNeverSteer : Prop :=
  ∀ (i : Instr) (s : State) (c k : Nat),
    ∃ t, exec i s = .next t ∧ t.cycles = s.cycles ∧ t.instrs = s.instrs ∧
      exec i { s with cycles := c, instrs := k } = .next { t with cycles := c, instrs := k }

/-- O48. STR through the program counter: the byte it stores is the next opcode fetched. In a state
that is not halted with the byte 0x50 | P at pc, the step succeeds, pc moves by 1, the byte at
the new pc is D, and the next fetch begins with it. The opcode byte 0x50 | P is general knowledge
(G1; log 9). Cites: 20_memory.md section 5 (instruction-fetch coherence), 41_memory_reference.md
(STR), log 9. -/
def Obligations.StoreIsSeenByNextFetch : Prop :=
  ∀ s : State, s.halted = false → s.readByte s.pc = 0x50 ||| s.p.setWidth 8 →
    ∃ t, step s = .next t ∧ t.pc = s.pc + 1 ∧ t.readByte t.pc = s.d ∧
      t.fetchBytes.head? = some s.d

/-- O49. DEC of the program counter, STXD with X = P and MARK with P = 2 return to their own address.
In a state that is not halted: with 0x20 | P at pc, with 0x73 at pc and X = P, or with 0x79 at pc
and P = 2, the step succeeds and the register that is the program counter holds the same address
again; STXD leaves D, and MARK the byte 16 * X + 2, in the byte after the opcode. STXD and MARK
are general knowledge (log 9). Cites: 70_reset_and_hazards.md section 3 (register aliasing),
90_conflicts.md C10. -/
def Obligations.AliasedStepsStandStill : Prop :=
  ∀ s : State, s.halted = false →
    (s.readByte s.pc = 0x20 ||| s.p.setWidth 8 → ∃ t, step s = .next t ∧ t.pc = s.pc) ∧
    (s.readByte s.pc = 0x73 → s.x = s.p →
      ∃ t, step s = .next t ∧ t.pc = s.pc ∧ t.readByte (s.pc + 1) = s.d) ∧
    (s.readByte s.pc = 0x79 → s.p = 2 →
      ∃ t, step s = .next t ∧ t.pc = s.pc ∧
        (t.readByte (s.pc + 1)).toNat = s.x.toNat * 16 + 2)

/-- O50. LDA of the program counter, and LDXA with X = P, load the byte after the opcode and step
over it. In a state that is not halted: with 0x40 | P at pc, or with 0x72 at pc and X = P, the
step succeeds, D is the byte after the opcode, and pc has moved by 2, also across the top of
memory. LDXA is general knowledge (log 9). Cites: 70_reset_and_hazards.md section 3 (register
aliasing), 41_memory_reference.md (LDA, LDXA). -/
def Obligations.InlineOperandIdiom : Prop :=
  ∀ s : State, s.halted = false →
    (s.readByte s.pc = 0x40 ||| s.p.setWidth 8 →
      ∃ t, step s = .next t ∧ t.d = s.readByte (s.pc + 1) ∧ t.pc = s.pc + 2) ∧
    (s.readByte s.pc = 0x72 → s.x = s.p →
      ∃ t, step s = .next t ∧ t.d = s.readByte (s.pc + 1) ∧ t.pc = s.pc + 2)

/-- O51. load_program writes its bytes and nothing else, or reports OutOfBounds and writes nothing.
If the start address plus the number of bytes exceeds 65536 the load returns OutOfBounds.
Otherwise it succeeds, address start + k then reads as byte k, every other address reads as
before, and nothing but memory changes: no register, flag, selector or counter, and halted is not
cleared. Cites: R261. -/
def Obligations.LoadProgramWritesExactlyItsBytes : Prop :=
  ∀ (s : State) (bytes : List Byte) (start : Nat),
    (65536 < start + bytes.length → s.loadProgram bytes start = .error .outOfBounds) ∧
    (start + bytes.length ≤ 65536 →
      ∃ t, s.loadProgram bytes start = .ok t ∧
        (∀ (k : Nat) (b : Byte), bytes[k]? = some b →
          t.readByte (BitVec.ofNat 16 (start + k)) = b) ∧
        (∀ a : Addr, a.toNat < start ∨ start + bytes.length ≤ a.toNat →
          t.readByte a = s.readByte a) ∧
        { t with mem := s.mem } = s)

/-- O52. A host register access with an index outside 0..15 is InvalidRegister; no instruction raises
it. Reading or force-setting register i is InvalidRegister exactly when i is 16 or more. No
instruction raises it: exec of every instruction, in every state, answers a next state. Cites:
R254. -/
def Obligations.HostRegisterIndexChecked : Prop :=
  (∀ (s : State) (i v : Nat),
      (s.hostRead (.reg i) = .error .invalidRegister ↔ 16 ≤ i) ∧
      (s.hostSet (.reg i) v = .error .invalidRegister ↔ 16 ≤ i)) ∧
    ∀ (i : Instr) (s : State), ∃ t, exec i s = .next t

/-- O53. A force-set writes exactly the named element, truncated to its width, and nothing else the
host can read. If a force-set succeeds, reading that element gives the value truncated to the
element's width, and reading every other element gives what it gave before. The spec's decision
D18 (log 12). Cites: 60_exceptions.md section 5 (accessors), 92_eei_decisions.md D18. -/
def Obligations.HostSetWritesOneElement : Prop :=
  ∀ (s t : State) (e : Element) (v : Nat), s.hostSet e v = .ok t →
    t.hostRead e = .ok (e.truncate v) ∧
      ∀ e' : Element, e' ≠ e → t.hostRead e' = s.hostRead e'

/-- O54. A bulk run takes at most its budget of steps, and ends early only halted or on a fault that
repeats. A run with budget max raises the cycle counter by at most max; if it ends without an
error, the block is halted or the counter is exactly max higher; if it ends with an error, a
further step gives the same error; and it never ends because the model declined an instruction.
The spec's decision D17 (log 18). Cites: 40_step_cycle.md section 3 (bulk run),
92_eei_decisions.md D17, log 18. -/
def Obligations.RunStaysInBudget : Prop :=
  ∀ (max : Nat) (s t : State) (e : RunEnd), s.run max = (t, e) →
    s.cycles ≤ t.cycles ∧ t.cycles ≤ s.cycles + max ∧
      (e = .ok → t.halted = true ∨ t.cycles = s.cycles + max) ∧
      (∀ f, e = .err f → step t = .fault f) ∧ ∀ r, e ≠ .declined r

/-- O55. Every step keeps memory canonical, the two counters equal, and every emitted event on a port
1 to 7. From every state that meets State.Inv, not only those a run from reset reaches, a step
that succeeds gives a state that meets it. The canonical form of memory is the model's own (log
3). Cites: 10_state.md section 5 (counters), 48_io.md (port interface), 20_memory.md section 1,
log 3. -/
def Obligations.StepKeepsInvariant : Prop :=
  ∀ s t : State, s.Inv → step s = .next t → t.Inv

/-- O56. The state after power-on meets the invariant, and so does any reset of a state that meets
it. State.Inv holds of the reset state, and of the state a host reset leaves from a state that
meets it. The canonical form of memory is the model's own (log 3). Cites: 70_reset_and_hazards.md
section 1, log 3. -/
def Obligations.ResetMeetsInvariant : Prop :=
  State.reset.Inv ∧ ∀ s : State, s.Inv → s.hostReset.Inv

/-- O57. Program loads and force-sets keep memory in canonical form, and a placed word does too. From
a state whose memory is canonical, a successful load_program, a successful force-set, a reset,
and laying a word out at pc each leave canonical memory. The canonical form is the model's own
(log 3). Cites: 60_exceptions.md section 5, log 3. -/
def Obligations.HostKeepsMemoryCanonical : Prop :=
  ∀ s : State, s.mem.wf = true →
    (∀ bytes start t, s.loadProgram bytes start = .ok t → t.mem.wf = true) ∧
    (∀ e v t, s.hostSet e v = .ok t → t.mem.wf = true) ∧ s.hostReset.mem.wf = true ∧
    ∀ nbits w, (s.withFetchWord nbits w).mem.wf = true

/-- O58. A table word placed at pc is the instruction the very next step runs. In a state that is not
halted with pc at most 0xFFFD: if the word decodes to i, then after placing it at pc, the fetch
gives i, the next step succeeds, and it is exec of i on the advanced state with the counts added.
Where the word is placed is the model's choice (log 11, log 19). Cites: 40_step_cycle.md section
1 (fetch and decode), log 11 and log 19. -/
def Obligations.PlacedWordRunsNext : Prop :=
  ∀ (s : State) (nbits w : Nat) (i : Instr), s.halted = false → s.pc.toNat ≤ 0xFFFD →
    decodeTableWord nbits w = some i →
    (s.withFetchWord nbits w).fetch = some i ∧
      ∃ u, exec i ((s.withFetchWord nbits w).advance i.length) = .next u ∧
        step (s.withFetchWord nbits w) = .next u.finishStep
end

