-- ==== Sys2Proof/Laws/Memory.lean ====
section
/-! SUPPORT. The laws of memory as data: read after write, the canonical form is kept, and memories in
canonical form that list the same bytes are equal. -/

namespace Sys2Proof.Machine

@[simp] theorem Memory.lookup_nil (a : Nat) : Memory.lookup [] a = none := rfl

theorem Memory.lookup_cons (k : Nat) (v : Byte) (m : Memory) (a : Nat) :
    Memory.lookup ((k, v) :: m) a = if k = a then some v else m.lookup a := rfl

/-- What a memory lists after a write. -/
theorem Memory.lookup_write (m : Memory) (a b : Nat) (v : Byte) :
    (m.write a v).lookup b = if b = a then some v else m.lookup b := by
  induction m with
  | nil => grind [Memory.write, Memory.lookup]
  | cons cell m ih => grind [Memory.write, Memory.lookup]

@[simp] theorem Memory.lookup_write_same (m : Memory) (a : Nat) (v : Byte) :
    (m.write a v).lookup a = some v := by simp [Memory.lookup_write]

theorem Memory.risesFrom_cons (low k : Nat) (v : Byte) (m : Memory) :
    Memory.risesFrom low ((k, v) :: m) = true ↔
      low ≤ k ∧ k < memorySize ∧ m.risesFrom (k + 1) = true := by
  simp [Memory.risesFrom, and_assoc]

theorem Memory.risesFrom_write {m : Memory} {low a : Nat} (v : Byte) (h : m.risesFrom low = true)
    (hlow : low ≤ a) (ha : a < memorySize) : (m.write a v).risesFrom low = true := by
  induction m generalizing low with
  | nil => simp [Memory.write, Memory.risesFrom, hlow, ha]
  | cons cell m ih =>
    obtain ⟨k, u⟩ := cell
    obtain ⟨h1, h2, h3⟩ := (Memory.risesFrom_cons ..).1 h
    simp only [Memory.write]
    split
    · exact (Memory.risesFrom_cons ..).2 ⟨hlow, ha, (Memory.risesFrom_cons ..).2 ⟨by omega, h2, h3⟩⟩
    · split
      · exact (Memory.risesFrom_cons ..).2 ⟨hlow, ha, by simp_all⟩
      · exact (Memory.risesFrom_cons ..).2 ⟨h1, h2, ih h3 (by omega)⟩

/-- A write inside the address space keeps the canonical form. -/
theorem Memory.wf_write {m : Memory} {a : Nat} (v : Byte) (h : m.wf = true)
    (ha : a < memorySize) : (m.write a v).wf = true :=
  Memory.risesFrom_write v h (Nat.zero_le a) ha

@[simp] theorem Memory.wf_nil : Memory.wf [] = true := rfl

/-- Nothing below where the addresses begin is listed. -/
theorem Memory.lookup_below {m : Memory} {low a : Nat} (h : m.risesFrom low = true) (ha : a < low) :
    m.lookup a = none := by
  induction m generalizing low with
  | nil => rfl
  | cons cell m ih =>
    obtain ⟨k, u⟩ := cell
    obtain ⟨h1, -, h3⟩ := (Memory.risesFrom_cons ..).1 h
    rw [Memory.lookup_cons, if_neg (by omega)]
    exact ih h3 (by omega)

theorem Memory.ext_risesFrom {m m' : Memory} {low : Nat} (h : m.risesFrom low = true)
    (h' : m'.risesFrom low = true) (heq : ∀ a, m.lookup a = m'.lookup a) : m = m' := by
  induction m generalizing m' low with
  | nil =>
    cases m' with
    | nil => rfl
    | cons cell m' => simp [Memory.lookup] at heq; simpa using (heq cell.1).symm
  | cons cell m ih =>
    obtain ⟨k, v⟩ := cell
    obtain ⟨-, -, h3⟩ := (Memory.risesFrom_cons ..).1 h
    cases m' with
    | nil => simpa [Memory.lookup_cons] using heq k
    | cons cell' m' =>
      obtain ⟨k', v'⟩ := cell'
      obtain ⟨-, -, h3'⟩ := (Memory.risesFrom_cons ..).1 h'
      have hk : k = k' := by
        rcases Nat.lt_trichotomy k k' with hlt | rfl | hlt
        · have := heq k
          rw [Memory.lookup_cons, Memory.lookup_cons, if_pos rfl, if_neg (by omega),
            Memory.lookup_below h3' (by omega)] at this
          cases this
        · rfl
        · have := heq k'
          rw [Memory.lookup_cons, Memory.lookup_cons, if_pos rfl, if_neg (by omega),
            Memory.lookup_below h3 (by omega)] at this
          cases this
      subst hk
      have hv : v = v' := by simpa [Memory.lookup_cons] using heq k
      subst hv
      congr 1
      refine ih h3 h3' fun a => ?_
      by_cases ha : k = a
      · subst ha
        rw [Memory.lookup_below h3 (by omega), Memory.lookup_below h3' (by omega)]
      · simpa [Memory.lookup_cons, ha] using heq a

/-- Memories in canonical form that list the same bytes are equal data. -/
theorem Memory.ext_wf {m m' : Memory} (h : m.wf = true) (h' : m'.wf = true)
    (heq : ∀ a, m.lookup a = m'.lookup a) : m = m' :=
  Memory.ext_risesFrom h h' heq

end Sys2Proof.Machine
end

