-- ==== Sys2Proof/Laws/State.lean ====
section
/-! SUPPORT. One lemma per field per update, and per reading of the state that an update leaves
alone, each true by definition. -/

namespace Sys2Proof.Machine

variable (s : State)

/-! `setReg` -/

@[simp] theorem setReg_regs (i : Nibble) (v : Addr) :
    (s.setReg i v).regs = s.regs.set i.toNat v i.isLt := rfl
@[simp] theorem setReg_d (i : Nibble) (v : Addr) : (s.setReg i v).d = s.d := rfl
@[simp] theorem setReg_df (i : Nibble) (v : Addr) : (s.setReg i v).df = s.df := rfl
@[simp] theorem setReg_p (i : Nibble) (v : Addr) : (s.setReg i v).p = s.p := rfl
@[simp] theorem setReg_x (i : Nibble) (v : Addr) : (s.setReg i v).x = s.x := rfl
@[simp] theorem setReg_ie (i : Nibble) (v : Addr) : (s.setReg i v).ie = s.ie := rfl
@[simp] theorem setReg_q (i : Nibble) (v : Addr) : (s.setReg i v).q = s.q := rfl
@[simp] theorem setReg_t (i : Nibble) (v : Addr) : (s.setReg i v).t = s.t := rfl
@[simp] theorem setReg_halted (i : Nibble) (v : Addr) : (s.setReg i v).halted = s.halted := rfl
@[simp] theorem setReg_cycles (i : Nibble) (v : Addr) : (s.setReg i v).cycles = s.cycles := rfl
@[simp] theorem setReg_instrs (i : Nibble) (v : Addr) : (s.setReg i v).instrs = s.instrs := rfl
@[simp] theorem setReg_mem (i : Nibble) (v : Addr) : (s.setReg i v).mem = s.mem := rfl
@[simp] theorem setReg_inputs (i : Nibble) (v : Addr) : (s.setReg i v).inputs = s.inputs := rfl
@[simp] theorem setReg_outs (i : Nibble) (v : Addr) : (s.setReg i v).outs = s.outs := rfl
@[simp] theorem setReg_sample (i : Nibble) (v : Addr) : (s.setReg i v).sample = s.sample := rfl
@[simp] theorem setReg_epoch (i : Nibble) (v : Addr) : (s.setReg i v).epoch = s.epoch := rfl
@[simp] theorem setReg_readByte (i : Nibble) (v : Addr) (w : Addr) :
    (s.setReg i v).readByte w = s.readByte w := rfl
@[simp] theorem setReg_input (i : Nibble) (v : Addr) : (s.setReg i v).input = s.input := rfl
@[simp] theorem setReg_ef (i : Nibble) (v : Addr) (line : EfLine) :
    (s.setReg i v).ef line = s.ef line := rfl

/-! `setD` -/

@[simp] theorem setD_regs (b : Byte) : (s.setD b).regs = s.regs := rfl
@[simp] theorem setD_d (b : Byte) : (s.setD b).d = b := rfl
@[simp] theorem setD_df (b : Byte) : (s.setD b).df = s.df := rfl
@[simp] theorem setD_p (b : Byte) : (s.setD b).p = s.p := rfl
@[simp] theorem setD_x (b : Byte) : (s.setD b).x = s.x := rfl
@[simp] theorem setD_ie (b : Byte) : (s.setD b).ie = s.ie := rfl
@[simp] theorem setD_q (b : Byte) : (s.setD b).q = s.q := rfl
@[simp] theorem setD_t (b : Byte) : (s.setD b).t = s.t := rfl
@[simp] theorem setD_halted (b : Byte) : (s.setD b).halted = s.halted := rfl
@[simp] theorem setD_cycles (b : Byte) : (s.setD b).cycles = s.cycles := rfl
@[simp] theorem setD_instrs (b : Byte) : (s.setD b).instrs = s.instrs := rfl
@[simp] theorem setD_mem (b : Byte) : (s.setD b).mem = s.mem := rfl
@[simp] theorem setD_inputs (b : Byte) : (s.setD b).inputs = s.inputs := rfl
@[simp] theorem setD_outs (b : Byte) : (s.setD b).outs = s.outs := rfl
@[simp] theorem setD_sample (b : Byte) : (s.setD b).sample = s.sample := rfl
@[simp] theorem setD_epoch (b : Byte) : (s.setD b).epoch = s.epoch := rfl
@[simp] theorem setD_reg (b : Byte) (j : Nibble) : (s.setD b).reg j = s.reg j := rfl
@[simp] theorem setD_readByte (b : Byte) (w : Addr) :
    (s.setD b).readByte w = s.readByte w := rfl
@[simp] theorem setD_pc (b : Byte) : (s.setD b).pc = s.pc := rfl
@[simp] theorem setD_input (b : Byte) : (s.setD b).input = s.input := rfl
@[simp] theorem setD_ef (b : Byte) (line : EfLine) : (s.setD b).ef line = s.ef line := rfl

/-! `setDf` -/

@[simp] theorem setDf_regs (c : Bool) : (s.setDf c).regs = s.regs := rfl
@[simp] theorem setDf_d (c : Bool) : (s.setDf c).d = s.d := rfl
@[simp] theorem setDf_df (c : Bool) : (s.setDf c).df = c := rfl
@[simp] theorem setDf_p (c : Bool) : (s.setDf c).p = s.p := rfl
@[simp] theorem setDf_x (c : Bool) : (s.setDf c).x = s.x := rfl
@[simp] theorem setDf_ie (c : Bool) : (s.setDf c).ie = s.ie := rfl
@[simp] theorem setDf_q (c : Bool) : (s.setDf c).q = s.q := rfl
@[simp] theorem setDf_t (c : Bool) : (s.setDf c).t = s.t := rfl
@[simp] theorem setDf_halted (c : Bool) : (s.setDf c).halted = s.halted := rfl
@[simp] theorem setDf_cycles (c : Bool) : (s.setDf c).cycles = s.cycles := rfl
@[simp] theorem setDf_instrs (c : Bool) : (s.setDf c).instrs = s.instrs := rfl
@[simp] theorem setDf_mem (c : Bool) : (s.setDf c).mem = s.mem := rfl
@[simp] theorem setDf_inputs (c : Bool) : (s.setDf c).inputs = s.inputs := rfl
@[simp] theorem setDf_outs (c : Bool) : (s.setDf c).outs = s.outs := rfl
@[simp] theorem setDf_sample (c : Bool) : (s.setDf c).sample = s.sample := rfl
@[simp] theorem setDf_epoch (c : Bool) : (s.setDf c).epoch = s.epoch := rfl
@[simp] theorem setDf_reg (c : Bool) (j : Nibble) : (s.setDf c).reg j = s.reg j := rfl
@[simp] theorem setDf_readByte (c : Bool) (w : Addr) :
    (s.setDf c).readByte w = s.readByte w := rfl
@[simp] theorem setDf_pc (c : Bool) : (s.setDf c).pc = s.pc := rfl
@[simp] theorem setDf_input (c : Bool) : (s.setDf c).input = s.input := rfl
@[simp] theorem setDf_ef (c : Bool) (line : EfLine) : (s.setDf c).ef line = s.ef line := rfl

/-! `setP` -/

@[simp] theorem setP_regs (n : Nibble) : (s.setP n).regs = s.regs := rfl
@[simp] theorem setP_d (n : Nibble) : (s.setP n).d = s.d := rfl
@[simp] theorem setP_df (n : Nibble) : (s.setP n).df = s.df := rfl
@[simp] theorem setP_p (n : Nibble) : (s.setP n).p = n := rfl
@[simp] theorem setP_x (n : Nibble) : (s.setP n).x = s.x := rfl
@[simp] theorem setP_ie (n : Nibble) : (s.setP n).ie = s.ie := rfl
@[simp] theorem setP_q (n : Nibble) : (s.setP n).q = s.q := rfl
@[simp] theorem setP_t (n : Nibble) : (s.setP n).t = s.t := rfl
@[simp] theorem setP_halted (n : Nibble) : (s.setP n).halted = s.halted := rfl
@[simp] theorem setP_cycles (n : Nibble) : (s.setP n).cycles = s.cycles := rfl
@[simp] theorem setP_instrs (n : Nibble) : (s.setP n).instrs = s.instrs := rfl
@[simp] theorem setP_mem (n : Nibble) : (s.setP n).mem = s.mem := rfl
@[simp] theorem setP_inputs (n : Nibble) : (s.setP n).inputs = s.inputs := rfl
@[simp] theorem setP_outs (n : Nibble) : (s.setP n).outs = s.outs := rfl
@[simp] theorem setP_sample (n : Nibble) : (s.setP n).sample = s.sample := rfl
@[simp] theorem setP_epoch (n : Nibble) : (s.setP n).epoch = s.epoch := rfl
@[simp] theorem setP_reg (n : Nibble) (j : Nibble) : (s.setP n).reg j = s.reg j := rfl
@[simp] theorem setP_readByte (n : Nibble) (w : Addr) :
    (s.setP n).readByte w = s.readByte w := rfl
@[simp] theorem setP_input (n : Nibble) : (s.setP n).input = s.input := rfl
@[simp] theorem setP_ef (n : Nibble) (line : EfLine) : (s.setP n).ef line = s.ef line := rfl

/-! `setX` -/

@[simp] theorem setX_regs (n : Nibble) : (s.setX n).regs = s.regs := rfl
@[simp] theorem setX_d (n : Nibble) : (s.setX n).d = s.d := rfl
@[simp] theorem setX_df (n : Nibble) : (s.setX n).df = s.df := rfl
@[simp] theorem setX_p (n : Nibble) : (s.setX n).p = s.p := rfl
@[simp] theorem setX_x (n : Nibble) : (s.setX n).x = n := rfl
@[simp] theorem setX_ie (n : Nibble) : (s.setX n).ie = s.ie := rfl
@[simp] theorem setX_q (n : Nibble) : (s.setX n).q = s.q := rfl
@[simp] theorem setX_t (n : Nibble) : (s.setX n).t = s.t := rfl
@[simp] theorem setX_halted (n : Nibble) : (s.setX n).halted = s.halted := rfl
@[simp] theorem setX_cycles (n : Nibble) : (s.setX n).cycles = s.cycles := rfl
@[simp] theorem setX_instrs (n : Nibble) : (s.setX n).instrs = s.instrs := rfl
@[simp] theorem setX_mem (n : Nibble) : (s.setX n).mem = s.mem := rfl
@[simp] theorem setX_inputs (n : Nibble) : (s.setX n).inputs = s.inputs := rfl
@[simp] theorem setX_outs (n : Nibble) : (s.setX n).outs = s.outs := rfl
@[simp] theorem setX_sample (n : Nibble) : (s.setX n).sample = s.sample := rfl
@[simp] theorem setX_epoch (n : Nibble) : (s.setX n).epoch = s.epoch := rfl
@[simp] theorem setX_reg (n : Nibble) (j : Nibble) : (s.setX n).reg j = s.reg j := rfl
@[simp] theorem setX_readByte (n : Nibble) (w : Addr) :
    (s.setX n).readByte w = s.readByte w := rfl
@[simp] theorem setX_pc (n : Nibble) : (s.setX n).pc = s.pc := rfl
@[simp] theorem setX_input (n : Nibble) : (s.setX n).input = s.input := rfl
@[simp] theorem setX_ef (n : Nibble) (line : EfLine) : (s.setX n).ef line = s.ef line := rfl

/-! `setIe` -/

@[simp] theorem setIe_regs (c : Bool) : (s.setIe c).regs = s.regs := rfl
@[simp] theorem setIe_d (c : Bool) : (s.setIe c).d = s.d := rfl
@[simp] theorem setIe_df (c : Bool) : (s.setIe c).df = s.df := rfl
@[simp] theorem setIe_p (c : Bool) : (s.setIe c).p = s.p := rfl
@[simp] theorem setIe_x (c : Bool) : (s.setIe c).x = s.x := rfl
@[simp] theorem setIe_ie (c : Bool) : (s.setIe c).ie = c := rfl
@[simp] theorem setIe_q (c : Bool) : (s.setIe c).q = s.q := rfl
@[simp] theorem setIe_t (c : Bool) : (s.setIe c).t = s.t := rfl
@[simp] theorem setIe_halted (c : Bool) : (s.setIe c).halted = s.halted := rfl
@[simp] theorem setIe_cycles (c : Bool) : (s.setIe c).cycles = s.cycles := rfl
@[simp] theorem setIe_instrs (c : Bool) : (s.setIe c).instrs = s.instrs := rfl
@[simp] theorem setIe_mem (c : Bool) : (s.setIe c).mem = s.mem := rfl
@[simp] theorem setIe_inputs (c : Bool) : (s.setIe c).inputs = s.inputs := rfl
@[simp] theorem setIe_outs (c : Bool) : (s.setIe c).outs = s.outs := rfl
@[simp] theorem setIe_sample (c : Bool) : (s.setIe c).sample = s.sample := rfl
@[simp] theorem setIe_epoch (c : Bool) : (s.setIe c).epoch = s.epoch := rfl
@[simp] theorem setIe_reg (c : Bool) (j : Nibble) : (s.setIe c).reg j = s.reg j := rfl
@[simp] theorem setIe_readByte (c : Bool) (w : Addr) :
    (s.setIe c).readByte w = s.readByte w := rfl
@[simp] theorem setIe_pc (c : Bool) : (s.setIe c).pc = s.pc := rfl
@[simp] theorem setIe_input (c : Bool) : (s.setIe c).input = s.input := rfl
@[simp] theorem setIe_ef (c : Bool) (line : EfLine) : (s.setIe c).ef line = s.ef line := rfl

/-! `setQ` -/

@[simp] theorem setQ_regs (c : Bool) : (s.setQ c).regs = s.regs := rfl
@[simp] theorem setQ_d (c : Bool) : (s.setQ c).d = s.d := rfl
@[simp] theorem setQ_df (c : Bool) : (s.setQ c).df = s.df := rfl
@[simp] theorem setQ_p (c : Bool) : (s.setQ c).p = s.p := rfl
@[simp] theorem setQ_x (c : Bool) : (s.setQ c).x = s.x := rfl
@[simp] theorem setQ_ie (c : Bool) : (s.setQ c).ie = s.ie := rfl
@[simp] theorem setQ_q (c : Bool) : (s.setQ c).q = c := rfl
@[simp] theorem setQ_t (c : Bool) : (s.setQ c).t = s.t := rfl
@[simp] theorem setQ_halted (c : Bool) : (s.setQ c).halted = s.halted := rfl
@[simp] theorem setQ_cycles (c : Bool) : (s.setQ c).cycles = s.cycles := rfl
@[simp] theorem setQ_instrs (c : Bool) : (s.setQ c).instrs = s.instrs := rfl
@[simp] theorem setQ_mem (c : Bool) : (s.setQ c).mem = s.mem := rfl
@[simp] theorem setQ_inputs (c : Bool) : (s.setQ c).inputs = s.inputs := rfl
@[simp] theorem setQ_outs (c : Bool) : (s.setQ c).outs = s.outs := rfl
@[simp] theorem setQ_sample (c : Bool) : (s.setQ c).sample = s.sample := rfl
@[simp] theorem setQ_epoch (c : Bool) : (s.setQ c).epoch = s.epoch := rfl
@[simp] theorem setQ_reg (c : Bool) (j : Nibble) : (s.setQ c).reg j = s.reg j := rfl
@[simp] theorem setQ_readByte (c : Bool) (w : Addr) :
    (s.setQ c).readByte w = s.readByte w := rfl
@[simp] theorem setQ_pc (c : Bool) : (s.setQ c).pc = s.pc := rfl
@[simp] theorem setQ_input (c : Bool) : (s.setQ c).input = s.input := rfl
@[simp] theorem setQ_ef (c : Bool) (line : EfLine) : (s.setQ c).ef line = s.ef line := rfl

/-! `setT` -/

@[simp] theorem setT_regs (b : Byte) : (s.setT b).regs = s.regs := rfl
@[simp] theorem setT_d (b : Byte) : (s.setT b).d = s.d := rfl
@[simp] theorem setT_df (b : Byte) : (s.setT b).df = s.df := rfl
@[simp] theorem setT_p (b : Byte) : (s.setT b).p = s.p := rfl
@[simp] theorem setT_x (b : Byte) : (s.setT b).x = s.x := rfl
@[simp] theorem setT_ie (b : Byte) : (s.setT b).ie = s.ie := rfl
@[simp] theorem setT_q (b : Byte) : (s.setT b).q = s.q := rfl
@[simp] theorem setT_t (b : Byte) : (s.setT b).t = b := rfl
@[simp] theorem setT_halted (b : Byte) : (s.setT b).halted = s.halted := rfl
@[simp] theorem setT_cycles (b : Byte) : (s.setT b).cycles = s.cycles := rfl
@[simp] theorem setT_instrs (b : Byte) : (s.setT b).instrs = s.instrs := rfl
@[simp] theorem setT_mem (b : Byte) : (s.setT b).mem = s.mem := rfl
@[simp] theorem setT_inputs (b : Byte) : (s.setT b).inputs = s.inputs := rfl
@[simp] theorem setT_outs (b : Byte) : (s.setT b).outs = s.outs := rfl
@[simp] theorem setT_sample (b : Byte) : (s.setT b).sample = s.sample := rfl
@[simp] theorem setT_epoch (b : Byte) : (s.setT b).epoch = s.epoch := rfl
@[simp] theorem setT_reg (b : Byte) (j : Nibble) : (s.setT b).reg j = s.reg j := rfl
@[simp] theorem setT_readByte (b : Byte) (w : Addr) :
    (s.setT b).readByte w = s.readByte w := rfl
@[simp] theorem setT_pc (b : Byte) : (s.setT b).pc = s.pc := rfl
@[simp] theorem setT_input (b : Byte) : (s.setT b).input = s.input := rfl
@[simp] theorem setT_ef (b : Byte) (line : EfLine) : (s.setT b).ef line = s.ef line := rfl

/-! `setHalted` -/

@[simp] theorem setHalted_regs (c : Bool) : (s.setHalted c).regs = s.regs := rfl
@[simp] theorem setHalted_d (c : Bool) : (s.setHalted c).d = s.d := rfl
@[simp] theorem setHalted_df (c : Bool) : (s.setHalted c).df = s.df := rfl
@[simp] theorem setHalted_p (c : Bool) : (s.setHalted c).p = s.p := rfl
@[simp] theorem setHalted_x (c : Bool) : (s.setHalted c).x = s.x := rfl
@[simp] theorem setHalted_ie (c : Bool) : (s.setHalted c).ie = s.ie := rfl
@[simp] theorem setHalted_q (c : Bool) : (s.setHalted c).q = s.q := rfl
@[simp] theorem setHalted_t (c : Bool) : (s.setHalted c).t = s.t := rfl
@[simp] theorem setHalted_halted (c : Bool) : (s.setHalted c).halted = c := rfl
@[simp] theorem setHalted_cycles (c : Bool) : (s.setHalted c).cycles = s.cycles := rfl
@[simp] theorem setHalted_instrs (c : Bool) : (s.setHalted c).instrs = s.instrs := rfl
@[simp] theorem setHalted_mem (c : Bool) : (s.setHalted c).mem = s.mem := rfl
@[simp] theorem setHalted_inputs (c : Bool) : (s.setHalted c).inputs = s.inputs := rfl
@[simp] theorem setHalted_outs (c : Bool) : (s.setHalted c).outs = s.outs := rfl
@[simp] theorem setHalted_sample (c : Bool) : (s.setHalted c).sample = s.sample := rfl
@[simp] theorem setHalted_epoch (c : Bool) : (s.setHalted c).epoch = s.epoch := rfl
@[simp] theorem setHalted_reg (c : Bool) (j : Nibble) : (s.setHalted c).reg j = s.reg j := rfl
@[simp] theorem setHalted_readByte (c : Bool) (w : Addr) :
    (s.setHalted c).readByte w = s.readByte w := rfl
@[simp] theorem setHalted_pc (c : Bool) : (s.setHalted c).pc = s.pc := rfl
@[simp] theorem setHalted_input (c : Bool) : (s.setHalted c).input = s.input := rfl
@[simp] theorem setHalted_ef (c : Bool) (line : EfLine) : (s.setHalted c).ef line = s.ef line := rfl

/-! `writeByte` -/

@[simp] theorem writeByte_regs (a : Addr) (v : Byte) : (s.writeByte a v).regs = s.regs := rfl
@[simp] theorem writeByte_d (a : Addr) (v : Byte) : (s.writeByte a v).d = s.d := rfl
@[simp] theorem writeByte_df (a : Addr) (v : Byte) : (s.writeByte a v).df = s.df := rfl
@[simp] theorem writeByte_p (a : Addr) (v : Byte) : (s.writeByte a v).p = s.p := rfl
@[simp] theorem writeByte_x (a : Addr) (v : Byte) : (s.writeByte a v).x = s.x := rfl
@[simp] theorem writeByte_ie (a : Addr) (v : Byte) : (s.writeByte a v).ie = s.ie := rfl
@[simp] theorem writeByte_q (a : Addr) (v : Byte) : (s.writeByte a v).q = s.q := rfl
@[simp] theorem writeByte_t (a : Addr) (v : Byte) : (s.writeByte a v).t = s.t := rfl
@[simp] theorem writeByte_halted (a : Addr) (v : Byte) : (s.writeByte a v).halted = s.halted := rfl
@[simp] theorem writeByte_cycles (a : Addr) (v : Byte) : (s.writeByte a v).cycles = s.cycles := rfl
@[simp] theorem writeByte_instrs (a : Addr) (v : Byte) : (s.writeByte a v).instrs = s.instrs := rfl
@[simp] theorem writeByte_mem (a : Addr) (v : Byte) :
    (s.writeByte a v).mem = s.mem.write a.toNat v := rfl
@[simp] theorem writeByte_inputs (a : Addr) (v : Byte) : (s.writeByte a v).inputs = s.inputs := rfl
@[simp] theorem writeByte_outs (a : Addr) (v : Byte) : (s.writeByte a v).outs = s.outs := rfl
@[simp] theorem writeByte_sample (a : Addr) (v : Byte) : (s.writeByte a v).sample = s.sample := rfl
@[simp] theorem writeByte_epoch (a : Addr) (v : Byte) : (s.writeByte a v).epoch = s.epoch := rfl
@[simp] theorem writeByte_reg (a : Addr) (v : Byte) (j : Nibble) :
    (s.writeByte a v).reg j = s.reg j := rfl
@[simp] theorem writeByte_pc (a : Addr) (v : Byte) : (s.writeByte a v).pc = s.pc := rfl
@[simp] theorem writeByte_input (a : Addr) (v : Byte) : (s.writeByte a v).input = s.input := rfl
@[simp] theorem writeByte_ef (a : Addr) (v : Byte) (line : EfLine) :
    (s.writeByte a v).ef line = s.ef line := rfl

/-! `emit` -/

@[simp] theorem emit_regs (port : Port) (b : Byte) : (s.emit port b).regs = s.regs := rfl
@[simp] theorem emit_d (port : Port) (b : Byte) : (s.emit port b).d = s.d := rfl
@[simp] theorem emit_df (port : Port) (b : Byte) : (s.emit port b).df = s.df := rfl
@[simp] theorem emit_p (port : Port) (b : Byte) : (s.emit port b).p = s.p := rfl
@[simp] theorem emit_x (port : Port) (b : Byte) : (s.emit port b).x = s.x := rfl
@[simp] theorem emit_ie (port : Port) (b : Byte) : (s.emit port b).ie = s.ie := rfl
@[simp] theorem emit_q (port : Port) (b : Byte) : (s.emit port b).q = s.q := rfl
@[simp] theorem emit_t (port : Port) (b : Byte) : (s.emit port b).t = s.t := rfl
@[simp] theorem emit_halted (port : Port) (b : Byte) : (s.emit port b).halted = s.halted := rfl
@[simp] theorem emit_cycles (port : Port) (b : Byte) : (s.emit port b).cycles = s.cycles := rfl
@[simp] theorem emit_instrs (port : Port) (b : Byte) : (s.emit port b).instrs = s.instrs := rfl
@[simp] theorem emit_mem (port : Port) (b : Byte) : (s.emit port b).mem = s.mem := rfl
@[simp] theorem emit_inputs (port : Port) (b : Byte) : (s.emit port b).inputs = s.inputs := rfl
@[simp] theorem emit_outs (port : Port) (b : Byte) :
    (s.emit port b).outs = s.outs ++ [⟨port, b⟩] := rfl
@[simp] theorem emit_sample (port : Port) (b : Byte) : (s.emit port b).sample = s.sample := rfl
@[simp] theorem emit_epoch (port : Port) (b : Byte) : (s.emit port b).epoch = s.epoch := rfl
@[simp] theorem emit_reg (port : Port) (b : Byte) (j : Nibble) :
    (s.emit port b).reg j = s.reg j := rfl
@[simp] theorem emit_readByte (port : Port) (b : Byte) (w : Addr) :
    (s.emit port b).readByte w = s.readByte w := rfl
@[simp] theorem emit_pc (port : Port) (b : Byte) : (s.emit port b).pc = s.pc := rfl
@[simp] theorem emit_input (port : Port) (b : Byte) : (s.emit port b).input = s.input := rfl
@[simp] theorem emit_ef (port : Port) (b : Byte) (line : EfLine) :
    (s.emit port b).ef line = s.ef line := rfl

/-! `finishStep` -/

@[simp] theorem finishStep_regs : (s.finishStep).regs = s.regs := rfl
@[simp] theorem finishStep_d : (s.finishStep).d = s.d := rfl
@[simp] theorem finishStep_df : (s.finishStep).df = s.df := rfl
@[simp] theorem finishStep_p : (s.finishStep).p = s.p := rfl
@[simp] theorem finishStep_x : (s.finishStep).x = s.x := rfl
@[simp] theorem finishStep_ie : (s.finishStep).ie = s.ie := rfl
@[simp] theorem finishStep_q : (s.finishStep).q = s.q := rfl
@[simp] theorem finishStep_t : (s.finishStep).t = s.t := rfl
@[simp] theorem finishStep_halted : (s.finishStep).halted = s.halted := rfl
@[simp] theorem finishStep_cycles : (s.finishStep).cycles = s.cycles + 1 := rfl
@[simp] theorem finishStep_instrs : (s.finishStep).instrs = s.instrs + 1 := rfl
@[simp] theorem finishStep_mem : (s.finishStep).mem = s.mem := rfl
@[simp] theorem finishStep_inputs : (s.finishStep).inputs = s.inputs.tail := rfl
@[simp] theorem finishStep_outs : (s.finishStep).outs = s.outs := rfl
@[simp] theorem finishStep_sample : (s.finishStep).sample = s.sample + 1 := rfl
@[simp] theorem finishStep_epoch : (s.finishStep).epoch = s.epoch := rfl
@[simp] theorem finishStep_reg (j : Nibble) : (s.finishStep).reg j = s.reg j := rfl
@[simp] theorem finishStep_readByte (w : Addr) :
    (s.finishStep).readByte w = s.readByte w := rfl
@[simp] theorem finishStep_pc : (s.finishStep).pc = s.pc := rfl

end Sys2Proof.Machine
end

