-- ==== Sys2Proof/Laws/Ops.lean ====
section
/-! SUPPORT. One specification lemma per shared operation: everything it does, so that a proof about
an instruction need not unfold it. -/

namespace Sys2Proof.Machine

variable (s : State)

/-! ### Registers -/

theorem State.reg_setReg (i j : Nibble) (v : Addr) :
    (s.setReg i v).reg j = if i = j then v else s.reg j := by
  simp only [State.reg, State.setReg, Vector.getElem_set, BitVec.toNat_inj]

@[simp] theorem State.reg_setReg_same (i : Nibble) (v : Addr) : (s.setReg i v).reg i = v := by
  simp [State.reg_setReg]

@[simp] theorem State.reg_setReg_of_ne {i j : Nibble} (h : i ≠ j) (v : Addr) :
    (s.setReg i v).reg j = s.reg j := by simp [State.reg_setReg, h]

@[simp] theorem State.pc_setPc (v : Addr) : (s.setPc v).pc = v := by
  simp [State.pc, State.setPc]

theorem State.pc_eq : s.pc = s.reg s.p := rfl

theorem State.setPc_eq (v : Addr) : s.setPc v = s.setReg s.p v := rfl

theorem State.incReg_eq (i : Nibble) : s.incReg i = s.setReg i (s.reg i + 1) := rfl

theorem State.decReg_eq (i : Nibble) : s.decReg i = s.setReg i (s.reg i - 1) := rfl

theorem State.advance_eq (len : Nat) :
    s.advance len = s.setReg s.p (s.reg s.p + BitVec.ofNat 16 len) := rfl

/-! ### Memory -/

theorem State.readByte_writeByte (a b : Addr) (v : Byte) :
    (s.writeByte a v).readByte b = if b = a then v else s.readByte b := by
  by_cases h : b = a
  · simp [State.readByte, h]
  · have : b.toNat ≠ a.toNat := fun hn => h (BitVec.eq_of_toNat_eq hn)
    simp [State.readByte, Memory.lookup_write, h, this]

@[simp] theorem State.readByte_writeByte_same (a : Addr) (v : Byte) :
    (s.writeByte a v).readByte a = v := by simp [State.readByte_writeByte]

@[simp] theorem State.readByte_writeByte_of_ne {a b : Addr} (h : b ≠ a) (v : Byte) :
    (s.writeByte a v).readByte b = s.readByte b := by simp [State.readByte_writeByte, h]

/-- A write keeps the canonical form of memory. -/
theorem State.wf_writeByte (a : Addr) (v : Byte) (h : s.mem.wf = true) :
    (s.writeByte a v).mem.wf = true := Memory.wf_write v h a.isLt

theorem State.wf_writeBytes (cells : List (Addr × Byte)) (h : s.mem.wf = true) :
    (s.writeBytes cells).mem.wf = true := by
  induction cells generalizing s with
  | nil => exact h
  | cons cell cells ih => exact ih _ (s.wf_writeByte cell.1 cell.2 h)

/-- Laying a word out changes memory and nothing else. -/
theorem State.writeBytes_eq (cells : List (Addr × Byte)) :
    s.writeBytes cells = { s with mem := (s.writeBytes cells).mem } := by
  induction cells generalizing s with
  | nil => rfl
  | cons cell cells ih => exact ih (s.writeByte cell.1 cell.2)

/-! ### Operands and transfers -/

theorem State.indexByte_eq : s.indexByte = s.readByte (s.reg s.x) := rfl

theorem State.loadThrough_eq (i : Nibble) : s.loadThrough i = s.setD (s.readByte (s.reg i)) := rfl

theorem State.storeThrough_eq (i : Nibble) (b : Byte) :
    s.storeThrough i b = s.writeByte (s.reg i) b := rfl

theorem State.setResult_eq (r : Byte × Bool) : s.setResult r = (s.setD r.1).setDf r.2 := rfl

theorem State.unpackXP_eq (b : Byte) :
    s.unpackXP b = (s.setX (highNibble b)).setP (lowNibble b) := rfl

theorem State.dIsZero_iff : s.dIsZero = true ↔ s.d = 0 := by simp [State.dIsZero]

/-- A short branch not taken changes nothing; taken, it writes the register `P` selects. -/
theorem State.shortBranch_cases (taken : Bool) (imm : Byte) :
    (taken = false ∧ s.shortBranch taken imm = s) ∨
      (taken = true ∧
        s.shortBranch taken imm = s.setReg s.p (joinBytes (highByte s.pc) imm)) := by
  cases taken
  · exact .inl ⟨rfl, rfl⟩
  · exact .inr ⟨rfl, rfl⟩

/-- A long branch not taken changes nothing; taken, it writes the register `P` selects. -/
theorem State.longBranch_cases (taken : Bool) (addr : Addr) :
    (taken = false ∧ s.longBranch taken addr = s) ∨
      (taken = true ∧ s.longBranch taken addr = s.setReg s.p addr) := by
  cases taken
  · exact .inl ⟨rfl, rfl⟩
  · exact .inr ⟨rfl, rfl⟩

/-- A long skip that does not skip changes nothing; one that skips moves `pc` by two. -/
theorem State.longSkip_cases (skips : Bool) :
    (skips = false ∧ s.longSkip skips = s) ∨
      (skips = true ∧ s.longSkip skips = s.setReg s.p (s.pc + 2)) := by
  cases skips
  · exact .inl ⟨rfl, rfl⟩
  · exact .inr ⟨rfl, rfl⟩

/-- RET and DIS: the byte is read through the old `X`, whose register moves past it. -/
theorem State.loadXP_eq (ie : Bool) :
    s.loadXP ie =
      ((((s.setReg s.x (s.reg s.x + 1)).setX (highNibble s.indexByte)).setP
        (lowNibble s.indexByte)).setIe ie) := rfl

theorem State.takeInput_eq :
    s.takeInput = (s.writeByte (s.reg s.x) s.input.ioData).setD s.input.ioData := rfl

/-! ### Packing X and P -/

@[simp] theorem highNibble_joinNibbles (hi lo : Nibble) : highNibble (joinNibbles hi lo) = hi := by
  revert hi lo; decide

@[simp] theorem lowNibble_joinNibbles (hi lo : Nibble) : lowNibble (joinNibbles hi lo) = lo := by
  revert hi lo; decide

@[simp] theorem highByte_joinBytes (hi lo : Byte) : highByte (joinBytes hi lo) = hi := by
  refine BitVec.eq_of_getLsbD_eq fun i hi' => ?_
  rw [highByte, joinBytes, BitVec.getLsbD_extractLsb', BitVec.getLsbD_append]
  simp [hi']

@[simp] theorem lowByte_joinBytes (hi lo : Byte) : lowByte (joinBytes hi lo) = lo := by
  refine BitVec.eq_of_getLsbD_eq fun i hi' => ?_
  rw [lowByte, joinBytes, BitVec.getLsbD_extractLsb', BitVec.getLsbD_append]
  simp [hi']

theorem joinBytes_highByte_lowByte (v : Addr) : joinBytes (highByte v) (lowByte v) = v := by
  refine BitVec.eq_of_getLsbD_eq fun i hi' => ?_
  rw [highByte, lowByte, joinBytes, BitVec.getLsbD_append, BitVec.getLsbD_extractLsb',
    BitVec.getLsbD_extractLsb']
  by_cases h : i < 8
  · simp [h]
  · simp [h, show i - 8 < 8 by omega, show 8 + (i - 8) = i by omega]

/-! ### Arithmetic results -/

/-- A sum of bytes and a carry, by value. -/
theorem addBytes_spec (a b : Byte) (c : Bool) :
    (addBytes a b c).1.toNat = (a.toNat + b.toNat + c.toNat) % 256 ∧
      ((addBytes a b c).2 = true ↔ 256 ≤ a.toNat + b.toNat + c.toNat) := by
  simp [addBytes]

/-- A difference of bytes and a borrow, by value. -/
theorem subBytes_spec (a b : Byte) (c : Bool) :
    ((subBytes a b c).1.toNat : Int) = ((a.toNat : Int) - b.toNat - c.toNat) % 256 ∧
      ((subBytes a b c).2 = true ↔ b.toNat + c.toNat ≤ a.toNat) := by
  constructor
  · simp [subBytes]; omega
  · simp [subBytes]; omega

end Sys2Proof.Machine
end

