-- ==== Sys2Proof/Laws/Decode.lean ====
section
/-! SUPPORT. The bit fields of the bytes the encoder makes, and what the opcode table says of each byte
that carries an operand. -/

namespace Sys2Proof

open Sys2Proof.Machine

/-! ### Values of joined and split bytes -/

theorem toNat_joinBytes (hi lo : Byte) : (joinBytes hi lo).toNat = hi.toNat * 256 + lo.toNat := by
  have h : (joinBytes hi lo).toNat = hi.toNat <<< 8 ||| lo.toNat := BitVec.toNat_append hi lo
  rw [h, ← Nat.shiftLeft_add_eq_or_of_lt (by simpa using lo.isLt), Nat.shiftLeft_eq]

theorem toNat_highByte (v : Addr) : (highByte v).toNat = v.toNat / 256 := by
  have := v.isLt
  simp [highByte, Nat.shiftRight_eq_div_pow]
  omega

theorem toNat_lowByte (v : Addr) : (lowByte v).toNat = v.toNat % 256 := by
  simp [lowByte]

theorem toNat_lowNibble (b : Byte) : (lowNibble b).toNat = b.toNat % 16 := by
  simp [lowNibble]

theorem toNat_highNibble (b : Byte) : (highNibble b).toNat = b.toNat / 16 := by
  have := b.isLt
  simp [highNibble, Nat.shiftRight_eq_div_pow]
  omega

theorem toNat_joinNibbles (hi lo : Nibble) :
    (joinNibbles hi lo).toNat = hi.toNat * 16 + lo.toNat := by
  revert hi lo; decide

/-! ### Opcode bytes with an operand -/

/-- A register-field opcode keeps its high nibble and gives its operand back. -/
theorem withField_fields (hi n : Nibble) :
    highNibble (withField (joinNibbles hi 0) n) = hi ∧
      lowNibble (withField (joinNibbles hi 0) n) = n := by
  revert hi n; decide

/-- An OUT opcode: row 6, the port in the low three bits, bit 3 clear. -/
theorem withPort_out_fields (port : Port) :
    highNibble (withPort 0x60 port) = 6 ∧ portField (withPort 0x60 port) = port ∧
      (lowNibble (withPort 0x60 port)).toNat = port.toNat := by
  revert port; decide

/-- An INP opcode: row 6, the port in the low three bits, bit 3 set. -/
theorem withPort_inp_fields (port : Port) :
    highNibble (withPort 0x68 port) = 6 ∧ portField (withPort 0x68 port) = port ∧
      (lowNibble (withPort 0x68 port)).toNat = port.toNat + 8 := by
  revert port; decide

/-- A register-field operation holds its whole row of the opcode table. -/
theorem opcodeForm_withField (hi : Nibble) (mk : Nibble → Instr)
    (h : ∀ b, highNibble b = hi → opcodeForm b = .f1 (mk (lowNibble b))) (n : Nibble) :
    opcodeForm (withField (joinNibbles hi 0) n) = .f1 (mk n) := by
  rw [h _ (withField_fields hi n).1, (withField_fields hi n).2]

theorem opcodeForm_ldn {n : Nibble} (hn : n ≠ 0) :
    opcodeForm (withField 0x00 n) = .f1 (.ldn n) := by
  obtain ⟨h1, h2⟩ : highNibble (withField 0x00 n) = 0 ∧ lowNibble (withField 0x00 n) = n :=
    withField_fields 0 n
  unfold opcodeForm
  rw [h1, h2]
  exact if_neg hn

theorem opcodeForm_inc (n : Nibble) : opcodeForm (withField 0x10 n) = .f1 (.inc n) :=
  opcodeForm_withField 1 .inc (fun b h => by simp [opcodeForm, h]) n

theorem opcodeForm_dec (n : Nibble) : opcodeForm (withField 0x20 n) = .f1 (.dec n) :=
  opcodeForm_withField 2 .dec (fun b h => by simp [opcodeForm, h]) n

theorem opcodeForm_lda (n : Nibble) : opcodeForm (withField 0x40 n) = .f1 (.lda n) :=
  opcodeForm_withField 4 .lda (fun b h => by simp [opcodeForm, h]) n

theorem opcodeForm_str (n : Nibble) : opcodeForm (withField 0x50 n) = .f1 (.str n) :=
  opcodeForm_withField 5 .str (fun b h => by simp [opcodeForm, h]) n

theorem opcodeForm_glo (n : Nibble) : opcodeForm (withField 0x80 n) = .f1 (.glo n) :=
  opcodeForm_withField 8 .glo (fun b h => by simp [opcodeForm, h]) n

theorem opcodeForm_ghi (n : Nibble) : opcodeForm (withField 0x90 n) = .f1 (.ghi n) :=
  opcodeForm_withField 9 .ghi (fun b h => by simp [opcodeForm, h]) n

theorem opcodeForm_plo (n : Nibble) : opcodeForm (withField 0xA0 n) = .f1 (.plo n) :=
  opcodeForm_withField 10 .plo (fun b h => by simp [opcodeForm, h]) n

theorem opcodeForm_phi (n : Nibble) : opcodeForm (withField 0xB0 n) = .f1 (.phi n) :=
  opcodeForm_withField 11 .phi (fun b h => by simp [opcodeForm, h]) n

theorem opcodeForm_sep (n : Nibble) : opcodeForm (withField 0xD0 n) = .f1 (.sep n) :=
  opcodeForm_withField 13 .sep (fun b h => by simp [opcodeForm, h]) n

theorem opcodeForm_sex (n : Nibble) : opcodeForm (withField 0xE0 n) = .f1 (.sex n) :=
  opcodeForm_withField 14 .sex (fun b h => by simp [opcodeForm, h]) n

theorem opcodeForm_row6 {b : Byte} (h : highNibble b = 6) : opcodeForm b = opcodeRow6 b := by
  simp [opcodeForm, h]

theorem opcodeForm_out {port : Port} (hp : port ≠ 0) :
    opcodeForm (withPort 0x60 port) = .f1 (.out port) := by
  obtain ⟨h1, h2, h3⟩ := withPort_out_fields port
  have hz : lowNibble (withPort 0x60 port) ≠ 0 := fun h => by
    rw [h] at h3
    exact hp (BitVec.eq_of_toNat_eq h3.symm)
  have hl : (lowNibble (withPort 0x60 port)).toNat < 8 := h3 ▸ port.isLt
  rw [opcodeForm_row6 h1, opcodeRow6, if_neg hz, if_pos hl, h2]

theorem opcodeForm_inp (port : Port) :
    opcodeForm (withPort 0x68 port) = .f1 (.inp port) := by
  obtain ⟨h1, h2, h3⟩ := withPort_inp_fields port
  have hz : lowNibble (withPort 0x68 port) ≠ 0 := fun h => by
    have h0 : (0 : Nibble).toNat = port.toNat + 8 := h ▸ h3
    exact absurd h0 (by simp)
  have hl : ¬ (lowNibble (withPort 0x68 port)).toNat < 8 := by omega
  rw [opcodeForm_row6 h1, opcodeRow6, if_neg hz, if_neg hl, h2]

/-! ### From the opcode table to the decoder -/

theorem encodes_of_f1 {b : Byte} {i : Instr} (h : opcodeForm b = .f1 i) : Encodes [b] i :=
  fun rest => by simp [decode, h]

theorem encodes_of_f2 {b : Byte} {mk : Byte → Instr} (h : opcodeForm b = .f2 mk) (imm : Byte) :
    Encodes [b, imm] (mk imm) :=
  fun rest => by simp [decode, h]

theorem encodes_of_f3 {b : Byte} {mk : Addr → Instr} (h : opcodeForm b = .f3 mk) (hi lo : Byte) :
    Encodes [b, hi, lo] (mk (joinBytes hi lo)) :=
  fun rest => by simp [decode, h]

end Sys2Proof
end

