-- ==== Sys2Proof/Laws/PerInstr.lean ====
section
/-! SUPPORT. The family EncodeShape: every instruction's encoding has the length its operation has, one
to three bytes (30_encoding.md R70, R78). One lemma per constructor. -/

namespace Sys2Proof.Laws.EncodeShape

/-- The encoder writes as many bytes as `length(op)` says, and that is 1, 2 or 3. -/
def Statement (i : Instr) : Prop := (encode i).length = i.length ∧ 1 ≤ i.length ∧ i.length ≤ 3

theorem shape {i : Instr} (h : (encode i).length = i.length) (h1 : Nat.ble 1 i.length = true)
    (h3 : Nat.ble i.length 3 = true) : Statement i :=
  ⟨h, Nat.le_of_ble_eq_true h1, Nat.le_of_ble_eq_true h3⟩

theorem idl : Statement (.idl) := shape rfl rfl rfl
theorem ldn (n : Nibble) : Statement (.ldn n) := shape rfl rfl rfl
theorem inc (n : Nibble) : Statement (.inc n) := shape rfl rfl rfl
theorem dec (n : Nibble) : Statement (.dec n) := shape rfl rfl rfl
theorem br (imm : Byte) : Statement (.br imm) := shape rfl rfl rfl
theorem bq (imm : Byte) : Statement (.bq imm) := shape rfl rfl rfl
theorem bz (imm : Byte) : Statement (.bz imm) := shape rfl rfl rfl
theorem bdf (imm : Byte) : Statement (.bdf imm) := shape rfl rfl rfl
theorem b1 (imm : Byte) : Statement (.b1 imm) := shape rfl rfl rfl
theorem b2 (imm : Byte) : Statement (.b2 imm) := shape rfl rfl rfl
theorem b3 (imm : Byte) : Statement (.b3 imm) := shape rfl rfl rfl
theorem b4 (imm : Byte) : Statement (.b4 imm) := shape rfl rfl rfl
theorem skp : Statement (.skp) := shape rfl rfl rfl
theorem bnq (imm : Byte) : Statement (.bnq imm) := shape rfl rfl rfl
theorem bnz (imm : Byte) : Statement (.bnz imm) := shape rfl rfl rfl
theorem bnf (imm : Byte) : Statement (.bnf imm) := shape rfl rfl rfl
theorem bn1 (imm : Byte) : Statement (.bn1 imm) := shape rfl rfl rfl
theorem bn2 (imm : Byte) : Statement (.bn2 imm) := shape rfl rfl rfl
theorem bn3 (imm : Byte) : Statement (.bn3 imm) := shape rfl rfl rfl
theorem bn4 (imm : Byte) : Statement (.bn4 imm) := shape rfl rfl rfl
theorem lda (n : Nibble) : Statement (.lda n) := shape rfl rfl rfl
theorem str (n : Nibble) : Statement (.str n) := shape rfl rfl rfl
theorem irx : Statement (.irx) := shape rfl rfl rfl
theorem out (port : Port) : Statement (.out port) := shape rfl rfl rfl
theorem inp (port : Port) : Statement (.inp port) := shape rfl rfl rfl
theorem ret : Statement (.ret) := shape rfl rfl rfl
theorem dis : Statement (.dis) := shape rfl rfl rfl
theorem ldxa : Statement (.ldxa) := shape rfl rfl rfl
theorem stxd : Statement (.stxd) := shape rfl rfl rfl
theorem adc : Statement (.adc) := shape rfl rfl rfl
theorem sdb : Statement (.sdb) := shape rfl rfl rfl
theorem shrc : Statement (.shrc) := shape rfl rfl rfl
theorem smb : Statement (.smb) := shape rfl rfl rfl
theorem sav : Statement (.sav) := shape rfl rfl rfl
theorem mark : Statement (.mark) := shape rfl rfl rfl
theorem req : Statement (.req) := shape rfl rfl rfl
theorem seq : Statement (.seq) := shape rfl rfl rfl
theorem adci (imm : Byte) : Statement (.adci imm) := shape rfl rfl rfl
theorem sdbi (imm : Byte) : Statement (.sdbi imm) := shape rfl rfl rfl
theorem shlc : Statement (.shlc) := shape rfl rfl rfl
theorem smbi (imm : Byte) : Statement (.smbi imm) := shape rfl rfl rfl
theorem glo (n : Nibble) : Statement (.glo n) := shape rfl rfl rfl
theorem ghi (n : Nibble) : Statement (.ghi n) := shape rfl rfl rfl
theorem plo (n : Nibble) : Statement (.plo n) := shape rfl rfl rfl
theorem phi (n : Nibble) : Statement (.phi n) := shape rfl rfl rfl
theorem lbr (addr : Addr) : Statement (.lbr addr) := shape rfl rfl rfl
theorem lbq (addr : Addr) : Statement (.lbq addr) := shape rfl rfl rfl
theorem lbz (addr : Addr) : Statement (.lbz addr) := shape rfl rfl rfl
theorem lbdf (addr : Addr) : Statement (.lbdf addr) := shape rfl rfl rfl
theorem nop : Statement (.nop) := shape rfl rfl rfl
theorem lsnq : Statement (.lsnq) := shape rfl rfl rfl
theorem lsnz : Statement (.lsnz) := shape rfl rfl rfl
theorem lsnf : Statement (.lsnf) := shape rfl rfl rfl
theorem lskp : Statement (.lskp) := shape rfl rfl rfl
theorem lbnq (addr : Addr) : Statement (.lbnq addr) := shape rfl rfl rfl
theorem lbnz (addr : Addr) : Statement (.lbnz addr) := shape rfl rfl rfl
theorem lbnf (addr : Addr) : Statement (.lbnf addr) := shape rfl rfl rfl
theorem lsie : Statement (.lsie) := shape rfl rfl rfl
theorem lsq : Statement (.lsq) := shape rfl rfl rfl
theorem lsz : Statement (.lsz) := shape rfl rfl rfl
theorem lsdf : Statement (.lsdf) := shape rfl rfl rfl
theorem sep (n : Nibble) : Statement (.sep n) := shape rfl rfl rfl
theorem sex (n : Nibble) : Statement (.sex n) := shape rfl rfl rfl
theorem ldx : Statement (.ldx) := shape rfl rfl rfl
theorem or : Statement (.or) := shape rfl rfl rfl
theorem and : Statement (.and) := shape rfl rfl rfl
theorem xor : Statement (.xor) := shape rfl rfl rfl
theorem add : Statement (.add) := shape rfl rfl rfl
theorem sd : Statement (.sd) := shape rfl rfl rfl
theorem shr : Statement (.shr) := shape rfl rfl rfl
theorem sm : Statement (.sm) := shape rfl rfl rfl
theorem ldi (imm : Byte) : Statement (.ldi imm) := shape rfl rfl rfl
theorem ori (imm : Byte) : Statement (.ori imm) := shape rfl rfl rfl
theorem ani (imm : Byte) : Statement (.ani imm) := shape rfl rfl rfl
theorem xri (imm : Byte) : Statement (.xri imm) := shape rfl rfl rfl
theorem adi (imm : Byte) : Statement (.adi imm) := shape rfl rfl rfl
theorem sdi (imm : Byte) : Statement (.sdi imm) := shape rfl rfl rfl
theorem shl : Statement (.shl) := shape rfl rfl rfl
theorem smi (imm : Byte) : Statement (.smi imm) := shape rfl rfl rfl

end Sys2Proof.Laws.EncodeShape
end

