-- ==== Sys2Proof/Laws/Step.lean ====
section
/-! SUPPORT. What a step can do, said once. -/

namespace Sys2Proof.Machine

theorem step_halted {s : State} (h : s.halted = true) : step s = .fault .halted := by
  simp [step, h]

theorem step_no_fetch {s : State} (h : s.halted = false) (hf : s.fetch = none) :
    step s = .fault (.decodeFault s.pc) := by
  simp [step, h, hf]

/-- A step that answers a next state executed the fetched instruction on the advanced state. -/
theorem step_next {s t : State} (h : step s = .next t) :
    s.halted = false ∧ ∃ i u, s.fetch = some i ∧ exec i (s.advance i.length) = .next u ∧
      t = u.finishStep := by
  unfold step at h
  split at h
  · cases h
  · split at h
    · cases h
    · next hh _ i hf =>
      split at h
      · next u hu => cases h; exact ⟨by simpa using hh, i, u, hf, hu, rfl⟩
      · cases h
      · cases h

/-- A step from a state that is not halted, at an instruction that executes. -/
theorem step_of_exec {s u : State} {i : Instr} (h : s.halted = false) (hf : s.fetch = some i)
    (hu : exec i (s.advance i.length) = .next u) : step s = .next u.finishStep := by
  simp [step, h, hf, hu]

/-- What a fetch gives is what the decoder reads from the fetched bytes. -/
theorem fetch_eq_some {s : State} {i : Instr} :
    s.fetch = some i ↔ ∃ rest, decode s.fetchBytes = .ok (i, rest) := by
  unfold State.fetch
  constructor
  · intro h
    split at h
    · next j rest hd => cases h; exact ⟨rest, hd⟩
    · cases h
  · rintro ⟨rest, hd⟩; simp [hd]

/-- Everything but memory is as it was after a word is placed at `pc`. -/
theorem withFetchWord_eq (s : State) (nbits w : Nat) :
    s.withFetchWord nbits w = { s with mem := (s.withFetchWord nbits w).mem } :=
  s.writeBytes_eq _

theorem wf_withFetchWord (s : State) (nbits w : Nat) (h : s.mem.wf = true) :
    (s.withFetchWord nbits w).mem.wf = true := s.wf_writeBytes _ h

/-! ### What the host's two writing operations can do -/

/-- A `load_program` that succeeds fits and changes memory only. -/
theorem loadProgram_ok {s t : State} {bytes : List Byte} {start : Nat}
    (h : s.loadProgram bytes start = .ok t) :
    start + bytes.length ≤ memorySize ∧ t = s.writeBytes (programCells start bytes) := by
  unfold State.loadProgram at h
  split at h
  · cases h
  · cases h; exact ⟨by omega, rfl⟩

theorem loadProgram_halted {s t : State} {bytes : List Byte} {start : Nat}
    (h : s.loadProgram bytes start = .ok t) : t.halted = s.halted := by
  rw [(loadProgram_ok h).2, s.writeBytes_eq]

/-- Only a force-set of `halted` itself changes the halt latch. -/
theorem hostSet_halted {s t : State} {e : Element} {v : Nat} (he : e ≠ .halted)
    (h : s.hostSet e v = .ok t) : t.halted = s.halted := by
  cases e <;> simp only [State.hostSet] at h
  case reg => split at h <;> cases h; rfl
  case halted => exact absurd rfl he
  all_goals cases h; rfl

end Sys2Proof.Machine
end

