-- ==== Sys2Proof/Tests/Slice0.lean ====
section
/-! SUPPORT. The model's own tests. Expected results come from the spec: the words from the opcode map
of 30_encoding.md R80, the steps from the vectors V<n> of 95_test_vectors.md, whose numbers the test
names carry. The witnesses show that the hypotheses of each statement can be met together. -/

namespace Sys2Proof.Tests

open Sys2Proof.Machine

/-! ### WellFormed: the ill-formed terms are refused, their neighbours are not (30_encoding.md R82) -/

theorem test_wf_refuses_ldn_0 : (Instr.ldn 0).wf = false := by decide
theorem test_wf_refuses_out_0 : (Instr.out 0).wf = false := by decide
theorem test_wf_admits_neighbours :
    (Instr.ldn 1).wf ∧ (Instr.ldn 15).wf ∧ (Instr.out 1).wf ∧ (Instr.out 7).wf ∧ (Instr.inp 0).wf ∧
      Instr.idl.wf ∧ Instr.irx.wf := by decide

/-! ### Decoding: every constructor, its word written out bit by bit, a later byte to the left
(30_encoding.md R71, R75, R80) -/

theorem test_decode_memory_reference :
    decodeTableWord 8 0b0000_0101 = some (.ldn 5) ∧
    decodeTableWord 8 0b0100_1010 = some (.lda 10) ∧
    decodeTableWord 8 0b1111_0000 = some .ldx ∧
    decodeTableWord 8 0b0111_0010 = some .ldxa ∧
    decodeTableWord 16 0b1010_0101_1111_1000 = some (.ldi 0xA5) ∧
    decodeTableWord 8 0b0101_0011 = some (.str 3) ∧
    decodeTableWord 8 0b0111_0011 = some .stxd := by
  decide

theorem test_decode_register_ops :
    decodeTableWord 8 0b0001_0001 = some (.inc 1) ∧
    decodeTableWord 8 0b0010_1111 = some (.dec 15) ∧
    decodeTableWord 8 0b0110_0000 = some .irx ∧
    decodeTableWord 8 0b1000_1001 = some (.glo 9) ∧
    decodeTableWord 8 0b1001_0110 = some (.ghi 6) ∧
    decodeTableWord 8 0b1010_0011 = some (.plo 3) ∧
    decodeTableWord 8 0b1011_0101 = some (.phi 5) ∧
    decodeTableWord 8 0b1101_1100 = some (.sep 12) ∧
    decodeTableWord 8 0b1110_0000 = some (.sex 0) := by
  decide

theorem test_decode_arithmetic :
    decodeTableWord 8 0b1111_0100 = some .add ∧
    decodeTableWord 16 0b1010_0101_1111_1100 = some (.adi 0xA5) ∧
    decodeTableWord 8 0b0111_0100 = some .adc ∧
    decodeTableWord 16 0b1010_0101_0111_1100 = some (.adci 0xA5) ∧
    decodeTableWord 8 0b1111_0101 = some .sd ∧
    decodeTableWord 16 0b1010_0101_1111_1101 = some (.sdi 0xA5) ∧
    decodeTableWord 8 0b0111_0101 = some .sdb ∧
    decodeTableWord 16 0b1010_0101_0111_1101 = some (.sdbi 0xA5) ∧
    decodeTableWord 8 0b1111_0111 = some .sm ∧
    decodeTableWord 16 0b1010_0101_1111_1111 = some (.smi 0xA5) ∧
    decodeTableWord 8 0b0111_0111 = some .smb ∧
    decodeTableWord 16 0b1010_0101_0111_1111 = some (.smbi 0xA5) := by
  decide

theorem test_decode_logic_shift :
    decodeTableWord 8 0b1111_0001 = some .or ∧
    decodeTableWord 16 0b1010_0101_1111_1001 = some (.ori 0xA5) ∧
    decodeTableWord 8 0b1111_0011 = some .xor ∧
    decodeTableWord 16 0b1010_0101_1111_1011 = some (.xri 0xA5) ∧
    decodeTableWord 8 0b1111_0010 = some .and ∧
    decodeTableWord 16 0b1010_0101_1111_1010 = some (.ani 0xA5) ∧
    decodeTableWord 8 0b1111_0110 = some .shr ∧
    decodeTableWord 8 0b0111_0110 = some .shrc ∧
    decodeTableWord 8 0b1111_1110 = some .shl ∧
    decodeTableWord 8 0b0111_1110 = some .shlc := by
  decide

theorem test_decode_short_branch :
    decodeTableWord 16 0b1010_0101_0011_0000 = some (.br 0xA5) ∧
    decodeTableWord 16 0b1010_0101_0011_0001 = some (.bq 0xA5) ∧
    decodeTableWord 16 0b1010_0101_0011_0010 = some (.bz 0xA5) ∧
    decodeTableWord 16 0b1010_0101_0011_0011 = some (.bdf 0xA5) ∧
    decodeTableWord 16 0b1010_0101_0011_0100 = some (.b1 0xA5) ∧
    decodeTableWord 16 0b1010_0101_0011_0101 = some (.b2 0xA5) ∧
    decodeTableWord 16 0b1010_0101_0011_0110 = some (.b3 0xA5) ∧
    decodeTableWord 16 0b1010_0101_0011_0111 = some (.b4 0xA5) ∧
    decodeTableWord 8 0b0011_1000 = some .skp ∧
    decodeTableWord 16 0b1010_0101_0011_1001 = some (.bnq 0xA5) ∧
    decodeTableWord 16 0b1010_0101_0011_1010 = some (.bnz 0xA5) ∧
    decodeTableWord 16 0b1010_0101_0011_1011 = some (.bnf 0xA5) ∧
    decodeTableWord 16 0b1010_0101_0011_1100 = some (.bn1 0xA5) ∧
    decodeTableWord 16 0b1010_0101_0011_1101 = some (.bn2 0xA5) ∧
    decodeTableWord 16 0b1010_0101_0011_1110 = some (.bn3 0xA5) ∧
    decodeTableWord 16 0b1010_0101_0011_1111 = some (.bn4 0xA5) := by
  decide

theorem test_decode_long_branch :
    decodeTableWord 24 0b0011_0100_0001_0010_1100_0000 = some (.lbr 0x1234) ∧
    decodeTableWord 24 0b0011_0100_0001_0010_1100_0001 = some (.lbq 0x1234) ∧
    decodeTableWord 24 0b0011_0100_0001_0010_1100_0010 = some (.lbz 0x1234) ∧
    decodeTableWord 24 0b0011_0100_0001_0010_1100_0011 = some (.lbdf 0x1234) ∧
    decodeTableWord 24 0b0011_0100_0001_0010_1100_1001 = some (.lbnq 0x1234) ∧
    decodeTableWord 24 0b0011_0100_0001_0010_1100_1010 = some (.lbnz 0x1234) ∧
    decodeTableWord 24 0b0011_0100_0001_0010_1100_1011 = some (.lbnf 0x1234) ∧
    decodeTableWord 8 0b1100_0100 = some .nop ∧
    decodeTableWord 8 0b1100_0101 = some .lsnq ∧
    decodeTableWord 8 0b1100_0110 = some .lsnz ∧
    decodeTableWord 8 0b1100_0111 = some .lsnf ∧
    decodeTableWord 8 0b1100_1000 = some .lskp ∧
    decodeTableWord 8 0b1100_1100 = some .lsie ∧
    decodeTableWord 8 0b1100_1101 = some .lsq ∧
    decodeTableWord 8 0b1100_1110 = some .lsz ∧
    decodeTableWord 8 0b1100_1111 = some .lsdf := by
  decide

theorem test_decode_control :
    decodeTableWord 8 0b0000_0000 = some .idl ∧
    decodeTableWord 8 0b0111_1011 = some .seq ∧
    decodeTableWord 8 0b0111_1010 = some .req ∧
    decodeTableWord 8 0b0111_1000 = some .sav ∧
    decodeTableWord 8 0b0111_1001 = some .mark ∧
    decodeTableWord 8 0b0111_0000 = some .ret ∧
    decodeTableWord 8 0b0111_0001 = some .dis := by
  decide

theorem test_decode_input_output :
    decodeTableWord 8 0b0110_0001 = some (.out 1) ∧
    decodeTableWord 8 0b0110_0111 = some (.out 7) ∧
    decodeTableWord 8 0b0110_1000 = some (.inp 0) ∧
    decodeTableWord 8 0b0110_1001 = some (.inp 1) ∧
    decodeTableWord 8 0b0110_1111 = some (.inp 7) := by
  decide

/-- No instruction is read from fewer bytes than it needs (R72). -/
theorem test_decode_too_short :
    decode [] = .error .noBytes ∧ decode [0xF8] = .error (.tooShort 0xF8) ∧
      decode [0xC0, 0x12] = .error (.tooShort 0xC0) := ⟨rfl, rfl, rfl⟩

/-- The record's register field, also where the operation ignores it (95_test_vectors.md 1.6). -/
theorem test_record_register_field :
    decodeRecord [0xB5] = .ok ⟨.phi 5, 5, none, none⟩ ∧
      decodeRecord [0x7B] = .ok ⟨.seq, 11, none, none⟩ ∧
      decodeRecord [0x00] = .ok ⟨.idl, 0, none, none⟩ ∧
      decodeRecord [0x68] = .ok ⟨.inp 0, 8, none, none⟩ := ⟨rfl, rfl, rfl, rfl⟩

/-- DOC example 1: the encoded program (95_test_vectors.md 1.1). -/
theorem test_encode_doc_example_1 :
    encode (.ldi 0x42) ++ encode (.phi 5) ++ encode .idl = [0xF8, 0x42, 0xB5, 0x00] := by decide

/-! ### Steps: what each vector starts from and what it looks at -/

/-- The reset state with bytes set in memory. -/
def start (cells : List (Addr × Byte)) : State := State.reset.writeBytes cells

/-- The state one step leads to, or none where the step fails. -/
def nextOf (s : State) : Option State :=
  match step s with
  | .next t => some t
  | .fault _ => none
  | .refused _ => none

/-- The error one step reports, or none where it succeeds. -/
def faultOf (s : State) : Option Fault :=
  match step s with
  | .next _ => none
  | .fault f => some f
  | .refused _ => none

/-! ### The step itself (95_test_vectors.md 2.1) -/

/-- V1, V8: `Halted` first, also where the fetch would fail. -/
theorem test_V1_V8_halted :
    faultOf (start [(0x0000, 0xF8), (0x0001, 0x01)] |>.setHalted true) = some .halted ∧
      faultOf (start [(0xFFFF, 0xF8)] |>.setReg 0 0xFFFF |>.setHalted true) = some .halted := by
  decide

/-- V2, V3, V4, V10: the fetch does not wrap. -/
theorem test_V2_V3_V4_V10_decode_fault :
    faultOf (start [(0xFFFF, 0xF8)] |>.setReg 0 0xFFFF) = some (.decodeFault 0xFFFF) ∧
      faultOf (start [(0xFFFE, 0xC0), (0xFFFF, 0x12)] |>.setReg 0 0xFFFE) =
        some (.decodeFault 0xFFFE) ∧
      faultOf (start [(0xFFFF, 0xC0)] |>.setReg 0 0xFFFF) = some (.decodeFault 0xFFFF) ∧
      faultOf (start [(0xFFFF, 0x30)] |>.setReg 0 0xFFFF) = some (.decodeFault 0xFFFF) := by
  decide

/-- A successful step counts once (40_step_cycle.md R108). -/
theorem test_step_counts_once :
    (nextOf (start [(0x0000, 0xC4)])).map (fun t => (t.cycles, t.instrs)) = some (1, 1) := by
  decide

/-- A table word placed at `pc` is what the very next step runs, here the first after reset. -/
theorem test_withFetchWord :
    (nextOf (State.reset.withFetchWord 16 0x42F8)).map (fun t => (t.d, t.reg 0)) =
      some (0x42, 0x0002) ∧
    (nextOf (State.reset.withFetchWord 24 0x3412C0)).map (fun t => t.reg 0) = some 0x1234 := by
  decide

/-! ### Memory reference (95_test_vectors.md 2.2) -/

theorem test_V20_ldn :
    (nextOf (start [(0x0000, 0x05), (0x1234, 0xAB)] |>.setReg 5 0x1234)).map
      (fun t => (t.d, t.reg 0)) = some (0xAB, 0x0001) := by
  decide

theorem test_V21_ldn :
    (nextOf (start [(0x0200, 0x03), (0x0201, 0x7E)] |>.setP 0x3 |>.setReg 3 0x0200)).map
      (fun t => (t.d, t.reg 3)) = some (0x7E, 0x0201) := by
  decide

theorem test_V22_lda :
    (nextOf (start [(0x0000, 0x44), (0xFFFF, 0x77)] |>.setReg 4 0xFFFF)).map
      (fun t => (t.d, t.reg 0, t.reg 4)) = some (0x77, 0x0001, 0x0000) := by
  decide

theorem test_V23_lda :
    (nextOf (start [(0x0200, 0x43), (0x0201, 0x7E)] |>.setP 0x3 |>.setReg 3 0x0200)).map
      (fun t => (t.d, t.reg 3)) = some (0x7E, 0x0202) := by
  decide

theorem test_V24_ldx :
    (nextOf (start [(0x0000, 0xF0), (0x0100, 0x5A)] |>.setX 0x2 |>.setReg 2 0x0100)).map
      (fun t => (t.d, t.reg 0)) = some (0x5A, 0x0001) := by
  decide

theorem test_V25_ldxa :
    (nextOf (start [(0x0000, 0x72), (0xFFFF, 0x5A)] |>.setX 0x2 |>.setReg 2 0xFFFF)).map
      (fun t => (t.d, t.reg 0, t.reg 2)) = some (0x5A, 0x0001, 0x0000) := by
  decide

theorem test_V26_ldi :
    (nextOf (start [(0x0000, 0xF8), (0x0001, 0x42)])).map
      (fun t => (t.d, t.reg 0)) = some (0x42, 0x0002) := by
  decide

theorem test_V6_ldi :
    (nextOf (start [(0xFFFE, 0xF8), (0xFFFF, 0x9C)] |>.setReg 0 0xFFFE)).map
      (fun t => (t.d, t.reg 0)) = some (0x9C, 0x0000) := by
  decide

theorem test_V27_str :
    (nextOf (start [(0x0000, 0x56)] |>.setD 0x99 |>.setReg 6 0x8000)).map
      (fun t => (t.reg 0, t.readByte 0x8000)) = some (0x0001, 0x99) := by
  decide

theorem test_V29_stxd :
    (nextOf (start [(0x0010, 0x73)]
        |>.setD 0x33 |>.setX 0x2 |>.setReg 2 0x0000 |>.setReg 0 0x0010)).map
      (fun t => (t.reg 0, t.reg 2, t.readByte 0x0000)) = some (0x0011, 0xFFFF, 0x33) := by
  decide

/-! ### Register operations (2.3) -/

theorem test_V40_inc :
    (nextOf (start [(0x0000, 0x17)] |>.setReg 7 0xFFFF)).map
      (fun t => (t.reg 0, t.reg 7)) = some (0x0001, 0x0000) := by
  decide

theorem test_V42_inc :
    (nextOf (start [(0x0010, 0x10)] |>.setReg 0 0x0010)).map
      (fun t => t.reg 0) = some 0x0012 := by
  decide

theorem test_V41_dec :
    (nextOf (start [(0x0000, 0x27)] |>.setReg 7 0x0000)).map
      (fun t => (t.reg 0, t.reg 7)) = some (0x0001, 0xFFFF) := by
  decide

theorem test_V44_irx :
    (nextOf (start [(0x0000, 0x60)] |>.setX 0x2 |>.setReg 2 0x00FF)).map
      (fun t => (t.reg 0, t.reg 2)) = some (0x0001, 0x0100) := by
  decide

theorem test_V45_glo :
    (nextOf (start [(0x0000, 0x89)] |>.setReg 9 0xA1B2)).map
      (fun t => (t.d, t.reg 0)) = some (0xB2, 0x0001) := by
  decide

theorem test_V54_glo :
    (nextOf (start [(0x0200, 0x80)] |>.setP 0x3 |>.setReg 3 0x0200)).map
      (fun t => (t.d, t.reg 3)) = some (0x00, 0x0201) := by
  decide

theorem test_V46_ghi :
    (nextOf (start [(0x0000, 0x99)] |>.setReg 9 0xA1B2)).map
      (fun t => (t.d, t.reg 0)) = some (0xA1, 0x0001) := by
  decide

theorem test_V47_plo :
    (nextOf (start [(0x0000, 0xA9)] |>.setReg 9 0xA1B2 |>.setD 0x5C)).map
      (fun t => (t.reg 0, t.reg 9)) = some (0x0001, 0xA15C) := by
  decide

theorem test_V49_plo :
    (nextOf (start [(0x0120, 0xA0)] |>.setD 0x80 |>.setReg 0 0x0120)).map
      (fun t => t.reg 0) = some 0x0180 := by
  decide

theorem test_V48_phi :
    (nextOf (start [(0x0000, 0xB9)] |>.setReg 9 0xA1B2 |>.setD 0x5C)).map
      (fun t => (t.reg 0, t.reg 9)) = some (0x0001, 0x5CB2) := by
  decide

theorem test_V50_phi :
    (nextOf (start [(0x01FF, 0xB0)] |>.setD 0x20 |>.setReg 0 0x01FF)).map
      (fun t => t.reg 0) = some 0x2000 := by
  decide

theorem test_V51_sep :
    (nextOf (start [(0x0006, 0xD3)] |>.setReg 3 0x0400 |>.setReg 0 0x0006)).map
      (fun t => (t.p, t.reg 0)) = some (0x3, 0x0007) := by
  decide

theorem test_V52_sep :
    (nextOf (start [(0x0006, 0xD0)] |>.setReg 0 0x0006)).map
      (fun t => t.reg 0) = some 0x0007 := by
  decide

theorem test_V53_sex :
    (nextOf (start [(0x0000, 0xEF)])).map
      (fun t => (t.x, t.reg 0)) = some (0xF, 0x0001) := by
  decide

/-! ### Arithmetic (2.4) -/

theorem test_V61_add :
    (nextOf (start [(0x0000, 0xF4), (0x0100, 0x80)]
        |>.setX 0x2 |>.setReg 2 0x0100 |>.setD 0x80)).map
      (fun t => (t.d, t.df, t.reg 0)) = some (0x00, true, 0x0001) := by
  decide

theorem test_V84_add :
    (nextOf (start [(0x0200, 0xF4), (0x0201, 0x14)] |>.setD 0x21 |>.setReg 0 0x0200)).map
      (fun t => (t.d, t.df, t.reg 0)) = some (0x35, false, 0x0201) := by
  decide

theorem test_V62_adi :
    (nextOf (start [(0x0000, 0xFC), (0x0001, 0x01)] |>.setD 0xFF)).map
      (fun t => (t.d, t.df, t.reg 0)) = some (0x00, true, 0x0002) := by
  decide

theorem test_V63_adi :
    (nextOf (start [(0x0000, 0xFC), (0x0001, 0x00)] |>.setD 0x00 |>.setDf true)).map
      (fun t => (t.d, t.df, t.reg 0)) = some (0x00, false, 0x0002) := by
  decide

theorem test_V64_adc :
    (nextOf (start [(0x0000, 0x74), (0x0100, 0x00)]
        |>.setX 0x2 |>.setReg 2 0x0100 |>.setD 0xFF |>.setDf true)).map
      (fun t => (t.d, t.df, t.reg 0)) = some (0x00, true, 0x0001) := by
  decide

theorem test_V66_adci :
    (nextOf (start [(0x0000, 0x7C), (0x0001, 0x80)] |>.setD 0x7F |>.setDf false)).map
      (fun t => (t.d, t.df, t.reg 0)) = some (0xFF, false, 0x0002) := by
  decide

theorem test_V67_adci :
    (nextOf (start [(0x0000, 0x7C), (0x0001, 0xFF)] |>.setD 0xFF |>.setDf true)).map
      (fun t => (t.d, t.df, t.reg 0)) = some (0xFF, true, 0x0002) := by
  decide

theorem test_V68_sd :
    (nextOf (start [(0x0000, 0xF5), (0x0100, 0x05)]
        |>.setX 0x2 |>.setReg 2 0x0100 |>.setD 0x03)).map
      (fun t => (t.d, t.df, t.reg 0)) = some (0x02, true, 0x0001) := by
  decide

theorem test_V69_sd :
    (nextOf (start [(0x0000, 0xF5), (0x0100, 0x03)]
        |>.setX 0x2 |>.setReg 2 0x0100 |>.setD 0x05)).map
      (fun t => (t.d, t.df, t.reg 0)) = some (0xFE, false, 0x0001) := by
  decide

theorem test_V70_sdi :
    (nextOf (start [(0x0000, 0xFD), (0x0001, 0x42)] |>.setD 0x42)).map
      (fun t => (t.d, t.df, t.reg 0)) = some (0x00, true, 0x0002) := by
  decide

theorem test_V72_sdb :
    (nextOf (start [(0x0000, 0x75), (0x0100, 0x05)]
        |>.setX 0x2 |>.setReg 2 0x0100 |>.setD 0x03 |>.setDf false)).map
      (fun t => (t.d, t.df, t.reg 0)) = some (0x01, true, 0x0001) := by
  decide

theorem test_V73_sdb :
    (nextOf (start [(0x0000, 0x75), (0x0100, 0x03)]
        |>.setX 0x2 |>.setReg 2 0x0100 |>.setD 0x03 |>.setDf false)).map
      (fun t => (t.d, t.df, t.reg 0)) = some (0xFF, false, 0x0001) := by
  decide

theorem test_V74_sdbi :
    (nextOf (start [(0x0000, 0x7D), (0x0001, 0x00)] |>.setD 0xFF |>.setDf false)).map
      (fun t => (t.d, t.df, t.reg 0)) = some (0x00, false, 0x0002) := by
  decide

theorem test_V75_sm :
    (nextOf (start [(0x0000, 0xF7), (0x0100, 0x03)]
        |>.setX 0x2 |>.setReg 2 0x0100 |>.setD 0x05)).map
      (fun t => (t.d, t.df, t.reg 0)) = some (0x02, true, 0x0001) := by
  decide

theorem test_V76_sm :
    (nextOf (start [(0x0000, 0xF7), (0x0100, 0x05)]
        |>.setX 0x2 |>.setReg 2 0x0100 |>.setD 0x03)).map
      (fun t => (t.d, t.df, t.reg 0)) = some (0xFE, false, 0x0001) := by
  decide

theorem test_V77_smi :
    (nextOf (start [(0x0000, 0xFF), (0x0001, 0x10)] |>.setD 0x10)).map
      (fun t => (t.d, t.df, t.reg 0)) = some (0x00, true, 0x0002) := by
  decide

theorem test_V78_smi :
    (nextOf (start [(0x0000, 0xFF), (0x0001, 0x01)] |>.setD 0x00)).map
      (fun t => (t.d, t.df, t.reg 0)) = some (0xFF, false, 0x0002) := by
  decide

theorem test_V79_smb :
    (nextOf (start [(0x0000, 0x77), (0x0100, 0x03)]
        |>.setX 0x2 |>.setReg 2 0x0100 |>.setD 0x05 |>.setDf false)).map
      (fun t => (t.d, t.df, t.reg 0)) = some (0x01, true, 0x0001) := by
  decide

theorem test_V80_smb :
    (nextOf (start [(0x0000, 0x77), (0x0100, 0x03)]
        |>.setX 0x2 |>.setReg 2 0x0100 |>.setD 0x05 |>.setDf true)).map
      (fun t => (t.d, t.df, t.reg 0)) = some (0x02, true, 0x0001) := by
  decide

theorem test_V81_smbi :
    (nextOf (start [(0x0000, 0x7F), (0x0001, 0xFF)] |>.setD 0x00 |>.setDf false)).map
      (fun t => (t.d, t.df, t.reg 0)) = some (0x00, false, 0x0002) := by
  decide

theorem test_V83_smbi :
    (nextOf (start [(0x0000, 0x7F), (0x0001, 0x00)] |>.setD 0x00 |>.setDf true)).map
      (fun t => (t.d, t.df, t.reg 0)) = some (0x00, true, 0x0002) := by
  decide

/-! ### Logic and shifts (2.5) -/

theorem test_V90_or :
    (nextOf (start [(0x0000, 0xF1), (0x0100, 0xF0)]
        |>.setX 0x2 |>.setReg 2 0x0100 |>.setD 0x0F |>.setDf true)).map
      (fun t => (t.d, t.df, t.reg 0)) = some (0xFF, true, 0x0001) := by
  decide

theorem test_V91_ori :
    (nextOf (start [(0x0000, 0xF9), (0x0001, 0x80)] |>.setD 0x01 |>.setDf true)).map
      (fun t => (t.d, t.df, t.reg 0)) = some (0x81, true, 0x0002) := by
  decide

theorem test_V92_xor :
    (nextOf (start [(0x0000, 0xF3), (0x0100, 0x0F)]
        |>.setX 0x2 |>.setReg 2 0x0100 |>.setD 0xFF)).map
      (fun t => (t.d, t.df, t.reg 0)) = some (0xF0, false, 0x0001) := by
  decide

theorem test_V93_xri :
    (nextOf (start [(0x0000, 0xFB), (0x0001, 0xAA)] |>.setD 0xAA |>.setDf true)).map
      (fun t => (t.d, t.df, t.reg 0)) = some (0x00, true, 0x0002) := by
  decide

theorem test_V94_and :
    (nextOf (start [(0x0000, 0xF2), (0x0100, 0x0F)]
        |>.setX 0x2 |>.setReg 2 0x0100 |>.setD 0x3C)).map
      (fun t => (t.d, t.df, t.reg 0)) = some (0x0C, false, 0x0001) := by
  decide

theorem test_V95_ani :
    (nextOf (start [(0x0000, 0xFA), (0x0001, 0xF0)] |>.setD 0x3C |>.setDf true)).map
      (fun t => (t.d, t.df, t.reg 0)) = some (0x30, true, 0x0002) := by
  decide

theorem test_V96_shr :
    (nextOf (start [(0x0000, 0xF6)] |>.setD 0x01)).map
      (fun t => (t.d, t.df, t.reg 0)) = some (0x00, true, 0x0001) := by
  decide

theorem test_V97_shr :
    (nextOf (start [(0x0000, 0xF6)] |>.setD 0x80 |>.setDf true)).map
      (fun t => (t.d, t.df, t.reg 0)) = some (0x40, false, 0x0001) := by
  decide

theorem test_V98_shrc :
    (nextOf (start [(0x0000, 0x76)] |>.setD 0x02 |>.setDf true)).map
      (fun t => (t.d, t.df, t.reg 0)) = some (0x81, false, 0x0001) := by
  decide

theorem test_V99_shrc :
    (nextOf (start [(0x0000, 0x76)] |>.setD 0x01 |>.setDf false)).map
      (fun t => (t.d, t.df, t.reg 0)) = some (0x00, true, 0x0001) := by
  decide

theorem test_V100_shl :
    (nextOf (start [(0x0000, 0xFE)] |>.setD 0x80)).map
      (fun t => (t.d, t.df, t.reg 0)) = some (0x00, true, 0x0001) := by
  decide

theorem test_V101_shl :
    (nextOf (start [(0x0000, 0xFE)] |>.setD 0x41 |>.setDf true)).map
      (fun t => (t.d, t.df, t.reg 0)) = some (0x82, false, 0x0001) := by
  decide

theorem test_V102_shlc :
    (nextOf (start [(0x0000, 0x7E)] |>.setD 0x80 |>.setDf true)).map
      (fun t => (t.d, t.df, t.reg 0)) = some (0x01, true, 0x0001) := by
  decide

theorem test_V104_shlc :
    (nextOf (start [(0x0000, 0x7E)] |>.setD 0x00 |>.setDf true)).map
      (fun t => (t.d, t.df, t.reg 0)) = some (0x01, false, 0x0001) := by
  decide

/-! ### Short branches and SKP (2.6) -/

theorem test_V142_br :
    (nextOf (start [(0x12FD, 0x30), (0x12FE, 0x44)] |>.setReg 0 0x12FD)).map
      (fun t => t.reg 0) = some 0x1244 := by
  decide

theorem test_V143_br :
    (nextOf (start [(0x12FE, 0x30), (0x12FF, 0x44)] |>.setReg 0 0x12FE)).map
      (fun t => t.reg 0) = some 0x1344 := by
  decide

theorem test_V111_bq :
    (nextOf (start [(0x0100, 0x31), (0x0101, 0x40)] |>.setQ true |>.setReg 0 0x0100)).map
      (fun t => t.reg 0) = some 0x0140 := by
  decide

theorem test_V112_bq :
    (nextOf (start [(0x0100, 0x31), (0x0101, 0x40)] |>.setQ false |>.setReg 0 0x0100)).map
      (fun t => t.reg 0) = some 0x0102 := by
  decide

theorem test_V113_bz :
    (nextOf (start [(0x0200, 0x32), (0x0201, 0x10)] |>.setD 0x00 |>.setReg 0 0x0200)).map
      (fun t => t.reg 0) = some 0x0210 := by
  decide

theorem test_V114_bz :
    (nextOf (start [(0x0200, 0x32), (0x0201, 0x10)] |>.setD 0x01 |>.setReg 0 0x0200)).map
      (fun t => t.reg 0) = some 0x0202 := by
  decide

theorem test_V115_bdf :
    (nextOf (start [(0x0300, 0x33), (0x0301, 0x80)] |>.setDf true |>.setReg 0 0x0300)).map
      (fun t => t.reg 0) = some 0x0380 := by
  decide

theorem test_V116_bdf :
    (nextOf (start [(0x0300, 0x33), (0x0301, 0x80)] |>.setDf false |>.setReg 0 0x0300)).map
      (fun t => t.reg 0) = some 0x0302 := by
  decide

theorem test_V117_b1 :
    (nextOf (start [(0x0000, 0x34), (0x0001, 0x20)]
        |>.withInputs [⟨true, false, false, false, 0x00⟩] 0)).map
      (fun t => t.reg 0) = some 0x0020 := by
  decide

theorem test_V118_b1 :
    (nextOf (start [(0x0000, 0x34), (0x0001, 0x20)]
        |>.withInputs [⟨false, true, true, true, 0x00⟩] 0)).map
      (fun t => t.reg 0) = some 0x0002 := by
  decide

theorem test_V119_b2 :
    (nextOf (start [(0x0000, 0x35), (0x0001, 0x20)]
        |>.withInputs [⟨false, true, false, false, 0x00⟩] 0)).map
      (fun t => t.reg 0) = some 0x0020 := by
  decide

theorem test_V120_b2 :
    (nextOf (start [(0x0000, 0x35), (0x0001, 0x20)]
        |>.withInputs [⟨true, false, true, true, 0x00⟩] 0)).map
      (fun t => t.reg 0) = some 0x0002 := by
  decide

theorem test_V121_b3 :
    (nextOf (start [(0x0000, 0x36), (0x0001, 0x20)]
        |>.withInputs [⟨false, false, true, false, 0x00⟩] 0)).map
      (fun t => t.reg 0) = some 0x0020 := by
  decide

theorem test_V122_b3 :
    (nextOf (start [(0x0000, 0x36), (0x0001, 0x20)]
        |>.withInputs [⟨true, true, false, true, 0x00⟩] 0)).map
      (fun t => t.reg 0) = some 0x0002 := by
  decide

theorem test_V123_b4 :
    (nextOf (start [(0x0000, 0x37), (0x0001, 0x20)]
        |>.withInputs [⟨false, false, false, true, 0x00⟩] 0)).map
      (fun t => t.reg 0) = some 0x0020 := by
  decide

theorem test_V124_b4 :
    (nextOf (start [(0x0000, 0x37), (0x0001, 0x20)]
        |>.withInputs [⟨true, true, true, false, 0x00⟩] 0)).map
      (fun t => t.reg 0) = some 0x0002 := by
  decide

theorem test_V125_skp :
    (nextOf (start [(0x0010, 0x38)] |>.setReg 0 0x0010)).map
      (fun t => t.reg 0) = some 0x0012 := by
  decide

theorem test_V127_skp :
    (nextOf (start [(0xFFFF, 0x38)] |>.setReg 0 0xFFFF)).map
      (fun t => t.reg 0) = some 0x0001 := by
  decide

theorem test_V128_bnq :
    (nextOf (start [(0x0100, 0x39), (0x0101, 0x40)] |>.setQ false |>.setReg 0 0x0100)).map
      (fun t => t.reg 0) = some 0x0140 := by
  decide

theorem test_V129_bnq :
    (nextOf (start [(0x0100, 0x39), (0x0101, 0x40)] |>.setQ true |>.setReg 0 0x0100)).map
      (fun t => t.reg 0) = some 0x0102 := by
  decide

theorem test_V130_bnz :
    (nextOf (start [(0x0200, 0x3A), (0x0201, 0x10)] |>.setD 0x80 |>.setReg 0 0x0200)).map
      (fun t => t.reg 0) = some 0x0210 := by
  decide

theorem test_V131_bnz :
    (nextOf (start [(0x0200, 0x3A), (0x0201, 0x10)] |>.setD 0x00 |>.setReg 0 0x0200)).map
      (fun t => t.reg 0) = some 0x0202 := by
  decide

theorem test_V132_bnf :
    (nextOf (start [(0x0300, 0x3B), (0x0301, 0x80)] |>.setDf false |>.setReg 0 0x0300)).map
      (fun t => t.reg 0) = some 0x0380 := by
  decide

theorem test_V133_bnf :
    (nextOf (start [(0x0300, 0x3B), (0x0301, 0x80)] |>.setDf true |>.setReg 0 0x0300)).map
      (fun t => t.reg 0) = some 0x0302 := by
  decide

theorem test_V134_bn1 :
    (nextOf (start [(0x0000, 0x3C), (0x0001, 0x20)]
        |>.withInputs [⟨false, true, true, true, 0x00⟩] 0)).map
      (fun t => t.reg 0) = some 0x0020 := by
  decide

theorem test_V135_bn1 :
    (nextOf (start [(0x0000, 0x3C), (0x0001, 0x20)]
        |>.withInputs [⟨true, false, false, false, 0x00⟩] 0)).map
      (fun t => t.reg 0) = some 0x0002 := by
  decide

theorem test_V136_bn2 :
    (nextOf (start [(0x0000, 0x3D), (0x0001, 0x20)]
        |>.withInputs [⟨true, false, true, true, 0x00⟩] 0)).map
      (fun t => t.reg 0) = some 0x0020 := by
  decide

theorem test_V137_bn2 :
    (nextOf (start [(0x0000, 0x3D), (0x0001, 0x20)]
        |>.withInputs [⟨false, true, false, false, 0x00⟩] 0)).map
      (fun t => t.reg 0) = some 0x0002 := by
  decide

theorem test_V138_bn3 :
    (nextOf (start [(0x0000, 0x3E), (0x0001, 0x20)]
        |>.withInputs [⟨true, true, false, true, 0x00⟩] 0)).map
      (fun t => t.reg 0) = some 0x0020 := by
  decide

theorem test_V139_bn3 :
    (nextOf (start [(0x0000, 0x3E), (0x0001, 0x20)]
        |>.withInputs [⟨false, false, true, false, 0x00⟩] 0)).map
      (fun t => t.reg 0) = some 0x0002 := by
  decide

theorem test_V140_bn4 :
    (nextOf (start [(0x0000, 0x3F), (0x0001, 0x20)]
        |>.withInputs [⟨true, true, true, false, 0x00⟩] 0)).map
      (fun t => t.reg 0) = some 0x0020 := by
  decide

theorem test_V141_bn4 :
    (nextOf (start [(0x0000, 0x3F), (0x0001, 0x20)]
        |>.withInputs [⟨false, false, false, true, 0x00⟩] 0)).map
      (fun t => t.reg 0) = some 0x0002 := by
  decide

/-! ### Long branches, long skips, NOP (2.7) -/

theorem test_V160_lbr :
    (nextOf (start [(0x0000, 0xC0), (0x0001, 0x12), (0x0002, 0x34)])).map
      (fun t => t.reg 0) = some 0x1234 := by
  decide

theorem test_V191_lbr :
    (nextOf (start [(0x4000, 0xC0), (0x4001, 0x00), (0x4002, 0x07)]
        |>.setP 0x7 |>.setReg 7 0x4000)).map
      (fun t => t.reg 7) = some 0x0007 := by
  decide

theorem test_V161_lbq :
    (nextOf (start [(0x0010, 0xC1), (0x0011, 0xAB), (0x0012, 0xCD)]
        |>.setQ true |>.setReg 0 0x0010)).map
      (fun t => t.reg 0) = some 0xABCD := by
  decide

theorem test_V162_lbq :
    (nextOf (start [(0x0010, 0xC1), (0x0011, 0xAB), (0x0012, 0xCD)]
        |>.setQ false |>.setReg 0 0x0010)).map
      (fun t => t.reg 0) = some 0x0013 := by
  decide

theorem test_V163_lbz :
    (nextOf (start [(0x0010, 0xC2), (0x0011, 0xAB), (0x0012, 0xCD)]
        |>.setD 0x00 |>.setReg 0 0x0010)).map
      (fun t => t.reg 0) = some 0xABCD := by
  decide

theorem test_V164_lbz :
    (nextOf (start [(0x0010, 0xC2), (0x0011, 0xAB), (0x0012, 0xCD)]
        |>.setD 0x09 |>.setReg 0 0x0010)).map
      (fun t => t.reg 0) = some 0x0013 := by
  decide

theorem test_V165_lbdf :
    (nextOf (start [(0x0010, 0xC3), (0x0011, 0xAB), (0x0012, 0xCD)]
        |>.setDf true |>.setReg 0 0x0010)).map
      (fun t => t.reg 0) = some 0xABCD := by
  decide

theorem test_V166_lbdf :
    (nextOf (start [(0x0010, 0xC3), (0x0011, 0xAB), (0x0012, 0xCD)]
        |>.setDf false |>.setReg 0 0x0010)).map
      (fun t => t.reg 0) = some 0x0013 := by
  decide

theorem test_V173_nop :
    (nextOf (start [(0x0010, 0xC4)] |>.setReg 0 0x0010)).map
      (fun t => t.reg 0) = some 0x0011 := by
  decide

theorem test_V5_nop :
    (nextOf (start [(0xFFFF, 0xC4)] |>.setReg 0 0xFFFF)).map
      (fun t => t.reg 0) = some 0x0000 := by
  decide

theorem test_V167_lbnq :
    (nextOf (start [(0x0010, 0xC9), (0x0011, 0xAB), (0x0012, 0xCD)]
        |>.setQ false |>.setReg 0 0x0010)).map
      (fun t => t.reg 0) = some 0xABCD := by
  decide

theorem test_V168_lbnq :
    (nextOf (start [(0x0010, 0xC9), (0x0011, 0xAB), (0x0012, 0xCD)]
        |>.setQ true |>.setReg 0 0x0010)).map
      (fun t => t.reg 0) = some 0x0013 := by
  decide

theorem test_V169_lbnz :
    (nextOf (start [(0x0010, 0xCA), (0x0011, 0xAB), (0x0012, 0xCD)]
        |>.setD 0x09 |>.setReg 0 0x0010)).map
      (fun t => t.reg 0) = some 0xABCD := by
  decide

theorem test_V170_lbnz :
    (nextOf (start [(0x0010, 0xCA), (0x0011, 0xAB), (0x0012, 0xCD)]
        |>.setD 0x00 |>.setReg 0 0x0010)).map
      (fun t => t.reg 0) = some 0x0013 := by
  decide

theorem test_V171_lbnf :
    (nextOf (start [(0x0010, 0xCB), (0x0011, 0xAB), (0x0012, 0xCD)]
        |>.setDf false |>.setReg 0 0x0010)).map
      (fun t => t.reg 0) = some 0xABCD := by
  decide

theorem test_V172_lbnf :
    (nextOf (start [(0x0010, 0xCB), (0x0011, 0xAB), (0x0012, 0xCD)]
        |>.setDf true |>.setReg 0 0x0010)).map
      (fun t => t.reg 0) = some 0x0013 := by
  decide

theorem test_V174_lsnq :
    (nextOf (start [(0x0010, 0xC5)] |>.setQ false |>.setReg 0 0x0010)).map
      (fun t => t.reg 0) = some 0x0013 := by
  decide

theorem test_V175_lsnq :
    (nextOf (start [(0x0010, 0xC5)] |>.setQ true |>.setReg 0 0x0010)).map
      (fun t => t.reg 0) = some 0x0011 := by
  decide

theorem test_V176_lsnz :
    (nextOf (start [(0x0010, 0xC6)] |>.setD 0x09 |>.setReg 0 0x0010)).map
      (fun t => t.reg 0) = some 0x0013 := by
  decide

theorem test_V177_lsnz :
    (nextOf (start [(0x0010, 0xC6)] |>.setD 0x00 |>.setReg 0 0x0010)).map
      (fun t => t.reg 0) = some 0x0011 := by
  decide

theorem test_V178_lsnf :
    (nextOf (start [(0x0010, 0xC7)] |>.setDf false |>.setReg 0 0x0010)).map
      (fun t => t.reg 0) = some 0x0013 := by
  decide

theorem test_V179_lsnf :
    (nextOf (start [(0x0010, 0xC7)] |>.setDf true |>.setReg 0 0x0010)).map
      (fun t => t.reg 0) = some 0x0011 := by
  decide

theorem test_V180_lskp :
    (nextOf (start [(0x0010, 0xC8)] |>.setReg 0 0x0010)).map
      (fun t => t.reg 0) = some 0x0013 := by
  decide

theorem test_V189_lskp :
    (nextOf (start [(0xFFFF, 0xC8)] |>.setReg 0 0xFFFF)).map
      (fun t => t.reg 0) = some 0x0002 := by
  decide

theorem test_V181_lsie :
    (nextOf (start [(0x0010, 0xCC)] |>.setIe true |>.setReg 0 0x0010)).map
      (fun t => t.reg 0) = some 0x0013 := by
  decide

theorem test_V182_lsie :
    (nextOf (start [(0x0010, 0xCC)] |>.setIe false |>.setReg 0 0x0010)).map
      (fun t => t.reg 0) = some 0x0011 := by
  decide

theorem test_V183_lsq :
    (nextOf (start [(0x0010, 0xCD)] |>.setQ true |>.setReg 0 0x0010)).map
      (fun t => t.reg 0) = some 0x0013 := by
  decide

theorem test_V184_lsq :
    (nextOf (start [(0x0010, 0xCD)] |>.setQ false |>.setReg 0 0x0010)).map
      (fun t => t.reg 0) = some 0x0011 := by
  decide

theorem test_V185_lsz :
    (nextOf (start [(0x0010, 0xCE)] |>.setD 0x00 |>.setReg 0 0x0010)).map
      (fun t => t.reg 0) = some 0x0013 := by
  decide

theorem test_V186_lsz :
    (nextOf (start [(0x0010, 0xCE)] |>.setD 0x09 |>.setReg 0 0x0010)).map
      (fun t => t.reg 0) = some 0x0011 := by
  decide

theorem test_V187_lsdf :
    (nextOf (start [(0x0010, 0xCF)] |>.setDf true |>.setReg 0 0x0010)).map
      (fun t => t.reg 0) = some 0x0013 := by
  decide

theorem test_V188_lsdf :
    (nextOf (start [(0x0010, 0xCF)] |>.setDf false |>.setReg 0 0x0010)).map
      (fun t => t.reg 0) = some 0x0011 := by
  decide

/-! ### Control (2.8) -/

theorem test_V200_idl :
    (nextOf (start [(0x0000, 0x00)])).map
      (fun t => (t.halted, t.reg 0)) = some (true, 0x0001) := by
  decide

theorem test_V202_seq :
    (nextOf (start [(0x0000, 0x7B)])).map
      (fun t => (t.q, t.reg 0)) = some (true, 0x0001) := by
  decide

theorem test_V203_req :
    (nextOf (start [(0x0000, 0x7A)] |>.setQ true)).map
      (fun t => (t.q, t.reg 0)) = some (false, 0x0001) := by
  decide

theorem test_V205_sav :
    (nextOf (start [(0x0000, 0x78)] |>.setT 0xC3 |>.setX 0x2 |>.setReg 2 0x0100)).map
      (fun t => (t.reg 0, t.readByte 0x0100)) = some (0x0001, 0xC3) := by
  decide

theorem test_V206_mark :
    (nextOf (start [(0x0400, 0x79)]
        |>.setX 0x5 |>.setP 0x3 |>.setReg 2 0x01FF |>.setT 0x00 |>.setReg 3 0x0400)).map
      (fun t => (t.x, t.t, t.reg 2, t.reg 3, t.readByte 0x01FF)) = some (0x3, 0x53, 0x01FE, 0x0401, 0x53) := by
  decide

theorem test_V207_mark :
    (nextOf (start [(0x0000, 0x79)] |>.setX 0x2 |>.setP 0x0 |>.setReg 2 0x0000 |>.setT 0x00)).map
      (fun t => (t.x, t.t, t.reg 0, t.reg 2, t.readByte 0x0000)) = some (0x0, 0x20, 0x0001, 0xFFFF, 0x20) := by
  decide

theorem test_V208_ret :
    (nextOf (start [(0x0000, 0x70), (0x0100, 0x53)]
        |>.setX 0x2 |>.setReg 2 0x0100 |>.setReg 3 0x0400 |>.setIe false)).map
      (fun t => (t.p, t.x, t.ie, t.reg 0, t.reg 2)) = some (0x3, 0x5, true, 0x0001, 0x0101) := by
  decide

theorem test_V210_ret :
    (nextOf (start [(0x0010, 0x70), (0x0011, 0x23)] |>.setX 0x0 |>.setReg 0 0x0010)).map
      (fun t => (t.p, t.x, t.reg 0)) = some (0x3, 0x2, 0x0012) := by
  decide

theorem test_V209_dis :
    (nextOf (start [(0x0000, 0x71), (0x0100, 0x53)]
        |>.setX 0x2 |>.setReg 2 0x0100 |>.setReg 3 0x0400)).map
      (fun t => (t.p, t.x, t.ie, t.reg 0, t.reg 2)) = some (0x3, 0x5, false, 0x0001, 0x0101) := by
  decide

theorem test_V211_dis :
    (nextOf (start [(0x0000, 0x71), (0xFFFF, 0x20)] |>.setX 0x2 |>.setReg 2 0xFFFF)).map
      (fun t => (t.ie, t.reg 0, t.reg 2)) = some (false, 0x0001, 0x0000) := by
  decide

/-! ### Input and output (2.9) -/

theorem test_V221_out :
    (nextOf (start [(0x0000, 0x67), (0xFFFF, 0xA5)] |>.setX 0x2 |>.setReg 2 0xFFFF)).map
      (fun t => (t.reg 0, t.reg 2, t.outs)) = some (0x0001, 0x0000, [⟨7, 0xA5⟩]) := by
  decide

theorem test_V222_out :
    (nextOf (start [(0x0010, 0x64), (0x0011, 0x99)] |>.setX 0x0 |>.setReg 0 0x0010)).map
      (fun t => (t.reg 0, t.outs)) = some (0x0012, [⟨4, 0x99⟩]) := by
  decide

theorem test_V223_inp :
    (nextOf (start [(0x0000, 0x69)]
        |>.setX 0x2 |>.setReg 2 0x0100 |>.withInputs [⟨false, false, false, false, 0xA7⟩] 0)).map
      (fun t => (t.d, t.reg 0, t.readByte 0x0100)) = some (0xA7, 0x0001, 0xA7) := by
  decide

theorem test_V225_inp :
    (nextOf (start [(0x0000, 0x68)]
        |>.setX 0x2 |>.setReg 2 0x0100 |>.withInputs [⟨false, false, false, false, 0x3C⟩] 0)).map
      (fun t => (t.d, t.reg 0, t.readByte 0x0100)) = some (0x3C, 0x0001, 0x3C) := by
  decide

/-! ### Host operations (95_test_vectors.md 1.5, 2.10) -/

/-- The state a host operation leaves, or none where it returns an error. -/
def okOf (r : Except HostError State) : Option State :=
  match r with
  | .ok t => some t
  | .error _ => none

theorem test_V240_load_program_at_top :
    (okOf (State.reset.loadProgram [0xAA, 0xBB] 0xFFFE)).map
      (fun t => (t.readByte 0xFFFE, t.readByte 0xFFFF)) = some (0xAA, 0xBB) := by
  decide

theorem test_V241_load_program_out_of_bounds :
    State.reset.loadProgram [0xAA, 0xBB] 0xFFFF = .error .outOfBounds := rfl

theorem test_V242_empty_load_at_end : State.reset.loadProgram [] 0x10000 = .ok State.reset := rfl

theorem test_V243_read_register_16 : State.reset.hostRead (.reg 16) = .error .invalidRegister := rfl

theorem test_V244_set_register_3 :
    (okOf (State.reset.hostSet (.reg 3) 0xBEEF)).map (·.reg 3) = some 0xBEEF := by decide

theorem test_V245_reset :
    let t := (((start []).setReg 5 0x4200).setD 0x42 |>.setQ true |>.setHalted true).hostReset
    (t.reg 5, t.d, t.q, t.halted) = (0x0000, 0x00, false, false) := by
  decide

/-- DOC example 5: four bytes at 0xFFFD do not fit, four at 0xFFFC do. -/
theorem test_load_program_boundary :
    (okOf (State.reset.loadProgram [1, 2, 3, 4] 0xFFFD)).isSome = false ∧
      (okOf (State.reset.loadProgram [1, 2, 3, 4] 0xFFFC)).isSome = true := by
  decide

/-! ### Witnesses: concrete states and operands that meet each statement's hypotheses together -/

theorem test_witness_DecodeInvertsEncode :
    (Instr.ldn 1).wf = true ∧ (Instr.out 7).wf = true ∧ (Instr.lbr 0xFFFF).wf = true := by decide

theorem test_witness_DecodedBytesAreTheirEncoding :
    decode [0xC0, 0x12, 0x34, 0x99] = .ok (.lbr 0x1234, [0x99]) ∧
      decode [0x00] = .ok (.idl, []) ∧ decode [0xF8, 0xFF] = .ok (.ldi 0xFF, []) :=
  ⟨rfl, rfl, rfl⟩

/-- Both sides of the equivalence, at the shortest slice that decodes and one byte below. -/
theorem test_witness_DecodeFailsExactlyOnShortSlices :
    (∃ e, decode [0xC0, 0x12] = .error e) ∧ 2 < (opcodeForm 0xC0).length ∧
      decode [0xC0, 0x12, 0x34] = .ok (.lbr 0x1234, []) ∧ ¬3 < (opcodeForm 0xC0).length ∧
      (∃ e, decode [0xF8] = .error e) ∧ decode [0x00] = .ok (.idl, []) :=
  ⟨⟨_, rfl⟩, by decide, rfl, by decide, ⟨_, rfl⟩, rfl⟩

/-- One record of each length. -/
theorem test_witness_DecodedRecordFields :
    decodeRecord [0x7B] = .ok ⟨.seq, 11, none, none⟩ ∧
      decodeRecord [0xF8, 0x42] = .ok ⟨.ldi 0x42, 8, some 0x42, none⟩ ∧
      decodeRecord [0xC0, 0x12, 0x34] = .ok ⟨.lbr 0x1234, 0, none, some 0x1234⟩ := ⟨rfl, rfl, rfl⟩

/-- A halted state, with a load, a force-set of another element and one of `halted` to 1 that succeed. -/
theorem test_witness_StepOfHaltedFails :
    (State.reset.setHalted true).halted = true ∧
      (∃ t, (State.reset.setHalted true).loadProgram [1, 2] 0xFFFE = .ok t) ∧
      (∃ t, (State.reset.setHalted true).hostSet (.reg 15) 0xBEEF = .ok t ∧
        Element.reg 15 ≠ .halted) ∧
      ∃ t, (State.reset.setHalted true).hostSet .halted 1 = .ok t :=
  ⟨rfl, ⟨_, rfl⟩, ⟨_, rfl, by decide⟩, ⟨_, rfl⟩⟩

/-- A running state at `NOP`, followed by two bytes that are set. -/
def atNop : State := start [(0x0000, 0xC4), (0x0001, 0x11), (0x0002, 0x22)]

theorem test_witness_StepRunsDecodedInstruction :
    atNop.halted = false ∧ decode atNop.fetchBytes = .ok (.nop, [0x11, 0x22]) := ⟨rfl, rfl⟩

/-- Each clause at its boundary address. -/
theorem test_witness_FetchReadsBytesAtPc :
    (State.reset.setReg 0 0x0000).pc.toNat ≤ 0xFFFD ∧
      (State.reset.setReg 0 0xFFFD).pc.toNat ≤ 0xFFFD ∧
      (State.reset.setReg 0 0xFFFE).pc.toNat = 0xFFFE ∧
      (State.reset.setReg 0 0xFFFF).pc.toNat = 0xFFFF := by decide

theorem test_witness_ExecutionIsUnconditional :
    atNop.halted = false ∧ decode atNop.fetchBytes = .ok (.nop, [0x11, 0x22]) := ⟨rfl, rfl⟩

/-- A running state whose two-byte instruction is cut at the top of memory, and one that just fits. -/
def cutAtTop : State := start [(0xFFFF, 0xF8)] |>.setReg 0 0xFFFF

def fitsAtTop : State := start [(0xFFFE, 0xF8), (0xFFFF, 0x9C)] |>.setReg 0 0xFFFE

theorem test_witness_StepFaultsExactlyAtTop :
    cutAtTop.halted = false ∧ step cutAtTop = .fault (.decodeFault 0xFFFF) ∧
      0x10000 < cutAtTop.pc.toNat + (opcodeForm (cutAtTop.readByte cutAtTop.pc)).length ∧
      fitsAtTop.halted = false ∧ (∃ t, step fitsAtTop = .next t) ∧
      ¬0x10000 < fitsAtTop.pc.toNat + (opcodeForm (fitsAtTop.readByte fitsAtTop.pc)).length :=
  ⟨rfl, rfl, by decide, rfl, ⟨_, rfl⟩, by decide⟩

/-- A safe step of either kind, and a step that is not safe. -/
theorem test_witness_SafeStepExactly :
    SafeStep fitsAtTop ∧ SafeStep (cutAtTop.setHalted true) ∧ cutAtTop.halted = false ∧
      ¬cutAtTop.instrFits :=
  ⟨.inl ⟨_, rfl⟩, .inr rfl, rfl, by unfold State.instrFits; decide⟩

theorem test_witness_SuccessfulStepCountsOnce :
    (∃ t, step atNop = .next t) ∧
      (start [(0x0000, 0x00)]).halted = false ∧ (start [(0x0000, 0x00)]).readByte 0x0000 = 0x00 :=
  ⟨⟨_, rfl⟩, rfl, rfl⟩

theorem test_witness_ResetValues :
    State.reset = State.reset ∨ State.reset = atNop.hostReset := .inl rfl

theorem test_witness_ResetEntryAndClearFlags :
    atNop.hostReset = State.reset ∨ atNop.hostReset = atNop.hostReset := .inr rfl

theorem test_witness_HaltLatchIsOneWay :
    (∃ t, exec .nop atNop = .next t ∧ Instr.nop ≠ .idl) ∧
      (∃ t, atNop.loadProgram [1, 2] 0xFFFE = .ok t) ∧
      (∃ t, atNop.hostSet .d 0x42 = .ok t ∧ Element.d ≠ .halted) ∧
      (atNop.setHalted true).halted = true :=
  ⟨⟨_, rfl, by decide⟩, ⟨_, rfl⟩, ⟨_, rfl, by decide⟩, rfl⟩

/-- A state with something to load: `X = 2`, `R[2] = 0x0100` and the byte 0x53 there. -/
def loaded : State :=
  start [(0x0000, 0xC4), (0x0100, 0x53)] |>.setX 2 |>.setReg 2 0x0100 |>.setD 0x80 |>.setT 0x00

theorem test_witness_SelectorWriters :
    (∃ t, exec (.sep 3) loaded = .next t ∧ t.p ≠ loaded.p) ∧
      (∃ t, exec .ret loaded = .next t ∧ t.p ≠ loaded.p ∧ t.x ≠ loaded.x) ∧
      ∃ t, exec .mark loaded = .next t ∧ t.x ≠ loaded.x :=
  ⟨⟨_, rfl, by decide⟩, ⟨_, rfl, by decide, by decide⟩,
    ⟨_, rfl, by decide⟩⟩

theorem test_witness_FlagAndSavedPairWriters :
    (∃ t, exec .shl loaded = .next t ∧ t.df ≠ loaded.df ∧ t.d ≠ loaded.d) ∧
      (∃ t, exec .seq loaded = .next t ∧ t.q ≠ loaded.q) ∧
      (∃ t, exec .dis loaded = .next t ∧ t.ie ≠ loaded.ie) ∧
      ∃ t, exec .mark loaded = .next t ∧ t.t ≠ loaded.t :=
  ⟨⟨_, rfl, by decide, by decide⟩, ⟨_, rfl, by decide⟩,
    ⟨_, rfl, by decide⟩, ⟨_, rfl, by decide⟩⟩

theorem test_witness_OnlyStoresWriteMemory :
    (∃ t, exec (.str 2) loaded = .next t ∧ t.readByte 0x0100 ≠ loaded.readByte 0x0100) ∧
      (∃ t, exec .stxd loaded = .next t ∧ t.readByte 0x0100 ≠ loaded.readByte 0x0100) ∧
      ∃ t, exec .mark loaded = .next t ∧ t.readByte 0x0100 ≠ loaded.readByte 0x0100 :=
  ⟨⟨_, rfl, by decide⟩, ⟨_, rfl, by decide⟩, ⟨_, rfl, by decide⟩⟩

theorem test_witness_LoadAndStoreThroughN : (1 : Nibble) ≠ 0 ∧ (15 : Nibble) ≠ 0 := by decide

theorem test_witness_SepSwitchesProgramCounter :
    let s := start [(0x0000, 0xD3)]
    s.halted = false ∧ s.readByte s.pc = 0xD0 ||| (3 : Nibble).setWidth 8 := by decide

/-- The clause for `N = P`. -/
theorem test_witness_SepSwitchesProgramCounter_same :
    let s := start [(0x0000, 0xD0)]
    s.halted = false ∧ s.readByte s.pc = 0xD0 ||| (0 : Nibble).setWidth 8 ∧ s.p = 0 := by
  decide

theorem test_witness_AddLaws : (0x53 : Byte) = loaded.readByte (loaded.reg loaded.x) := rfl

theorem test_witness_SubtractLaws : (0x53 : Byte) = loaded.readByte (loaded.reg loaded.x) := rfl

theorem test_witness_SubtractWithBorrowLaws :
    (0x53 : Byte) = loaded.readByte (loaded.reg loaded.x) := rfl

theorem test_witness_LogicLeavesDf : (0x53 : Byte) = loaded.readByte (loaded.reg loaded.x) := rfl

theorem test_witness_ReturnAndDisable : (0x53 : Byte) = loaded.readByte (loaded.reg loaded.x) := rfl

theorem test_witness_ShortBranchesOnInputs :
    (loaded.withInputs [⟨true, false, true, false, 0xA7⟩] 0).inputs =
      ⟨true, false, true, false, 0xA7⟩ :: [] := rfl

/-- A state at a short branch, with EF1 set and the other flags clear. -/
def atShortBranch (opcode : Byte) (pc : Addr) : State :=
  (start [(pc, opcode), (pc + 1, 0x44)] |>.setReg 0 pc).withInputs
    [⟨true, false, false, false, 0x00⟩] 0

/-- The state runs, is at that opcode byte, and the branch's condition there is `taken`. -/
def branches (s : State) (opcode : Byte) (taken : Bool) : Bool :=
  !s.halted && s.readByte s.pc == opcode &&
    decide ((opcode, taken) ∈ [((0x30 : Byte), true), (0x31, s.q), (0x32, s.d == 0), (0x33, s.df),
      (0x34, s.ef .ef1), (0x35, s.ef .ef2), (0x36, s.ef .ef3), (0x37, s.ef .ef4), (0x39, !s.q),
      (0x3A, s.d != 0), (0x3B, !s.df), (0x3C, !s.ef .ef1), (0x3D, !s.ef .ef2),
      (0x3E, !s.ef .ef3), (0x3F, !s.ef .ef4)])

/-- Taken at the offsets 0xFD, 0xFE and 0xFF of a page, across the top and at 0xFFFF, not taken at a
page edge and at 0xFFFF; on the state and on an external flag. -/
theorem test_witness_ShortBranchPage :
    branches (atShortBranch 0x30 0x12FD) 0x30 true ∧
      branches (atShortBranch 0x32 0x12FE) 0x32 true ∧
      branches (atShortBranch 0x34 0x12FF) 0x34 true ∧
      branches (atShortBranch 0x3B 0xFFFE) 0x3B true ∧
      branches (atShortBranch 0x31 0x12FE) 0x31 false ∧
      branches (atShortBranch 0x3C 0xFFFE) 0x3C false ∧
      branches (atShortBranch 0x30 0xFFFF) 0x30 true ∧
      branches (atShortBranch 0x35 0xFFFF) 0x35 false ∧
      (atShortBranch 0x30 0xFFFE).pc.toNat < 0xFFFF ∧
      (atShortBranch 0x30 0xFFFF).pc.toNat = 0xFFFF := by
  decide

theorem test_witness_LongBranchesOnState :
    (0xABCD : Addr).toNat = (0xAB : Byte).toNat * 256 + (0xCD : Byte).toNat := by decide

theorem test_witness_UnconditionalTransfersAndLsie :
    (0x1234 : Addr).toNat = (0x12 : Byte).toNat * 256 + (0x34 : Byte).toNat := by decide

theorem test_witness_LongSkipComplementsLongBranch :
    (Instr.lbz 0x1234, Instr.lsnz) ∈ [(Instr.lbr 0x1234, Instr.nop),
      (Instr.lbq 0x1234, .lsnq), (Instr.lbz 0x1234, .lsnz), (Instr.lbdf 0x1234, .lsnf),
      (Instr.lbnq 0x1234, .lsq), (Instr.lbnz 0x1234, .lsz), (Instr.lbnf 0x1234, .lsdf)] := by
  decide

theorem test_witness_IdleHalts :
    (start [(0x0000, 0x00)]).halted = false ∧
      (start [(0x0000, 0x00)]).readByte (start [(0x0000, 0x00)]).pc = 0x00 := by decide

theorem test_witness_OutputAndInput :
    (1 : Port) ≠ 0 ∧ (loaded.withInputs [⟨false, false, false, false, 0xA7⟩] 0).inputs =
      ⟨false, false, false, false, 0xA7⟩ :: [] := ⟨by decide, rfl⟩

/-- A step that emits and one that does not. -/
theorem test_witness_OnlyOutEmits :
    (∃ t, step (loaded.writeByte 0x0000 0x64) = .next t ∧ t.outs ≠ loaded.outs) ∧
      ∃ t, step loaded = .next t ∧ t.outs = loaded.outs :=
  ⟨⟨_, rfl, by decide⟩, ⟨_, rfl, rfl⟩⟩

theorem test_witness_InputSeenOnlyByEfBranchesAndInp :
    Instr.nop.mnemonic ∉ ["B1", "B2", "B3", "B4", "BN1", "BN2", "BN3", "BN4", "INP"] := by decide

theorem test_witness_IeSteersOnlyLsie : Instr.ret ≠ .lsie := by decide

theorem test_witness_SavedPairSeenOnlyBySav : Instr.mark ≠ .sav := by decide

theorem test_witness_StoreIsSeenByNextFetch :
    let s := start [(0x0000, 0x53)] |>.setP 3 |>.setReg 3 0x0000 |>.setD 0x7B
    s.halted = false ∧ s.readByte s.pc = 0x50 ||| s.p.setWidth 8 := by decide

/-- Each of the three clauses. -/
theorem test_witness_AliasedStepsStandStill :
    let dec := start [(0x0010, 0x20)] |>.setReg 0 0x0010
    let stxd := start [(0x0010, 0x73)] |>.setReg 0 0x0010
    let mark := start [(0x0010, 0x79)] |>.setP 2 |>.setReg 2 0x0010
    (dec.halted = false ∧ dec.readByte dec.pc = 0x20 ||| dec.p.setWidth 8) ∧
      (stxd.halted = false ∧ stxd.readByte stxd.pc = 0x73 ∧ stxd.x = stxd.p) ∧
      (mark.halted = false ∧ mark.readByte mark.pc = 0x79 ∧ mark.p = 2) := by decide

/-- Both clauses, the first across the top of memory. -/
theorem test_witness_InlineOperandIdiom :
    let lda := start [(0xFFFF, 0x40), (0x0000, 0x7E)] |>.setReg 0 0xFFFF
    let ldxa := start [(0x0010, 0x72), (0x0011, 0x7E)] |>.setReg 0 0x0010
    (lda.halted = false ∧ lda.readByte lda.pc = 0x40 ||| lda.p.setWidth 8) ∧
      (ldxa.halted = false ∧ ldxa.readByte ldxa.pc = 0x72 ∧ ldxa.x = ldxa.p) := by decide

/-- Both clauses where they meet, and the empty load at the very end. -/
theorem test_witness_LoadProgramWritesExactlyItsBytes :
    65536 < 0xFFFD + [1, 2, 3, 4].length ∧ 0xFFFC + [1, 2, 3, 4].length ≤ 65536 ∧
      0x10000 + ([] : List Byte).length ≤ 65536 ∧ [1, 2, 3, 4][3]? = some 4 ∧
      ((0xFFFB : Addr).toNat < 0xFFFC ∨ 0xFFFC + [1, 2, 3, 4].length ≤ (0xFFFB : Addr).toNat) := by
  decide

/-- Index 15 is a register, index 16 is not. -/
theorem test_witness_HostRegisterIndexChecked :
    State.reset.hostRead (.reg 15) = .ok 0 ∧
      State.reset.hostRead (.reg 16) = .error .invalidRegister := ⟨rfl, rfl⟩

theorem test_witness_HostSetWritesOneElement :
    (∃ t, State.reset.hostSet (.reg 15) 0x1BEEF = .ok t) ∧ Element.d ≠ Element.reg 15 ∧
      Element.reg 14 ≠ Element.reg 15 := ⟨⟨_, rfl⟩, by decide, by decide⟩

/-- A run that uses its budget up, one that ends halted and one that ends on a fault. -/
theorem test_witness_RunStaysInBudget :
    (atNop.run 1).2 = .ok ∧ ((start [(0x0000, 0x00)]).run 3).2 = .ok ∧
      (cutAtTop.run 1).2 = .err (.decodeFault 0xFFFF) := by decide

theorem test_witness_StepKeepsInvariant : atNop.Inv ∧ ∃ t, step atNop = .next t :=
  ⟨⟨by decide, rfl, by decide⟩, ⟨_, rfl⟩⟩

theorem test_witness_ResetMeetsInvariant : atNop.Inv :=
  ⟨by decide, rfl, by decide⟩

theorem test_witness_HostKeepsMemoryCanonical :
    atNop.mem.wf = true ∧ (∃ t, atNop.loadProgram [1, 2] 0xFFFE = .ok t) ∧
      ∃ t, atNop.hostSet (.mem 0xFFFF) 0x1FF = .ok t :=
  ⟨by decide, ⟨_, rfl⟩, ⟨_, rfl⟩⟩

/-- At the last address the statement covers, with a three-byte word. -/
theorem test_witness_PlacedWordRunsNext :
    (State.reset.setReg 0 0xFFFD).halted = false ∧
      (State.reset.setReg 0 0xFFFD).pc.toNat ≤ 0xFFFD ∧
      decodeTableWord 24 0x3412C0 = some (.lbr 0x1234) := by decide

end Sys2Proof.Tests
end

/-! The values reset leaves and the halt latch (10_state.md section 5 and section 9): what a reset
writes, that no shared operation touches `halted`, and so which instructions can. -/

namespace Sys2Proof.Machine

/-! ### The state a reset leaves -/

@[simp] theorem State.reg_afterReset (epoch sample : Nat) (inputs : List Input)
    (outs : List OutEvent) (n : Nibble) :
    (State.afterReset epoch sample inputs outs).reg n = 0 := by
  simp [State.reg, State.afterReset]

theorem State.reset_eq : State.reset = State.afterReset 0 0 [] [] := rfl

theorem State.hostReset_eq (s : State) :
    s.hostReset = State.afterReset (s.epoch + 1) s.sample s.inputs s.outs := rfl

/-- Power-on and a reset between steps are one operation on the block; they differ only in what
lies outside it (log 15). -/
theorem State.exists_eq_afterReset {s t : State} (h : t = State.reset ∨ t = s.hostReset) :
    ∃ epoch sample inputs outs, t = State.afterReset epoch sample inputs outs := by
  obtain h | h := h
  · exact ⟨_, _, _, _, h.trans State.reset_eq⟩
  · exact ⟨_, _, _, _, h.trans s.hostReset_eq⟩

@[simp] theorem State.hostReset_halted (s : State) : s.hostReset.halted = false := rfl

/-- Settles O13: both kinds of reset are `afterReset`, whose fields are the values of R41. -/
theorem resetValues : Obligations.ResetValues := by
  intro s t h
  obtain ⟨epoch, sample, inputs, outs, rfl⟩ := State.exists_eq_afterReset h
  exact ⟨State.reg_afterReset epoch sample inputs outs, rfl, rfl, rfl, rfl, rfl, rfl, rfl⟩

/-! ### The halt latch -/

@[simp] theorem State.shortBranch_halted (s : State) (taken : Bool) (imm : Byte) :
    (s.shortBranch taken imm).halted = s.halted := by
  obtain ⟨-, h⟩ | ⟨-, h⟩ := s.shortBranch_cases taken imm <;> simp [h]

@[simp] theorem State.longBranch_halted (s : State) (taken : Bool) (addr : Addr) :
    (s.longBranch taken addr).halted = s.halted := by
  obtain ⟨-, h⟩ | ⟨-, h⟩ := s.longBranch_cases taken addr <;> simp [h]

@[simp] theorem State.longSkip_halted (s : State) (skips : Bool) :
    (s.longSkip skips).halted = s.halted := by
  obtain ⟨-, h⟩ | ⟨-, h⟩ := s.longSkip_cases skips <;> simp [h]

theorem exec_idl (s : State) : exec .idl s = .next (s.setHalted true) := rfl

/-- No instruction but IDL writes the halt latch. A branch or skip may or may not move `pc`; every
other meaning is a fixed chain of updates, none of them to `halted`. -/
theorem exec_halted {i : Instr} {s t : State} (h : exec i s = .next t) (hi : i ≠ .idl) :
    t.halted = s.halted := by
  cases i
  case idl => exact absurd rfl hi
  case br | bq | bz | bdf | b1 | b2 | b3 | b4 | bnq | bnz | bnf | bn1 | bn2 | bn3 | bn4 =>
    cases h; exact s.shortBranch_halted ..
  case lbr | lbq | lbz | lbdf | lbnq | lbnz | lbnf => cases h; exact s.longBranch_halted ..
  case nop | lsnq | lsnz | lsnf | lskp | lsie | lsq | lsz | lsdf =>
    cases h; exact s.longSkip_halted ..
  all_goals cases h; rfl

/-- The host can clear the latch. -/
theorem hostSet_halted_zero (s : State) : s.hostSet .halted 0 = .ok (s.setHalted false) := rfl

/-- Settles O15: IDL is the one instruction that writes the latch, and the host writes it only by a
reset or by name. -/
theorem haltLatchIsOneWay : Obligations.HaltLatchIsOneWay := by
  intro s
  exact ⟨⟨_, exec_idl s, setHalted_halted s true⟩, fun _ _ => exec_halted,
    fun _ _ _ => loadProgram_halted, fun _ _ _ => hostSet_halted, step_halted,
    s.hostReset_halted, _, hostSet_halted_zero s, setHalted_halted s false⟩

end Sys2Proof.Machine

/-! The decoder against the encoder and the decoded record (30_encoding.md R70 to R75, R86): every
encoding decodes to its instruction, the record and the plain decoder read the same instruction, and
the formats of the opcode table have the lengths of their operations. -/

namespace Sys2Proof

/-! ### What the encoder writes decodes to the instruction it was given -/

theorem encodes_withAddress {opcode : Byte} {mk : Addr → Instr} (h : opcodeForm opcode = .f3 mk)
    (addr : Addr) : Encodes (withAddress opcode addr) (mk addr) := by
  have hd := encodes_of_f3 h (highByte addr) (lowByte addr)
  rwa [Machine.joinBytes_highByte_lowByte] at hd

/-- The encoder and the opcode table agree. The operations that hold a row or half a row of the
table by their operand have a lemma each; every other operation has one opcode byte, at which the
table is evaluated. LDN 0 and OUT 0 are the only terms that well-formedness leaves out. -/
theorem encodes_encode {i : Instr} (h : i.wf = true) : Encodes (encode i) i := by
  cases i
  case ldn => exact encodes_of_f1 (opcodeForm_ldn (bne_iff_ne.mp h))
  case inc => exact encodes_of_f1 (opcodeForm_inc _)
  case dec => exact encodes_of_f1 (opcodeForm_dec _)
  case lda => exact encodes_of_f1 (opcodeForm_lda _)
  case str => exact encodes_of_f1 (opcodeForm_str _)
  case out => exact encodes_of_f1 (opcodeForm_out (bne_iff_ne.mp h))
  case inp => exact encodes_of_f1 (opcodeForm_inp _)
  case glo => exact encodes_of_f1 (opcodeForm_glo _)
  case ghi => exact encodes_of_f1 (opcodeForm_ghi _)
  case plo => exact encodes_of_f1 (opcodeForm_plo _)
  case phi => exact encodes_of_f1 (opcodeForm_phi _)
  case sep => exact encodes_of_f1 (opcodeForm_sep _)
  case sex => exact encodes_of_f1 (opcodeForm_sex _)
  case br | bq | bz | bdf | b1 | b2 | b3 | b4 | bnq | bnz | bnf | bn1 | bn2 | bn3 | bn4 | adci
      | sdbi | smbi | ldi | ori | ani | xri | adi | sdi | smi =>
    exact encodes_of_f2 rfl _
  case lbr | lbq | lbz | lbdf | lbnq | lbnz | lbnf => exact encodes_withAddress rfl _
  all_goals exact encodes_of_f1 rfl

/-! ### The decoded record -/

/-- What a successful decode to a record can be: one case for each format of the opcode table. -/
theorem decodeRecord_cases {b : Byte} {rest : List Byte} {r : DecodedRecord}
    (h : decodeRecord (b :: rest) = .ok r) :
    (∃ i, opcodeForm b = .f1 i ∧ r = ⟨i, lowNibble b, none, none⟩) ∨
      (∃ mk imm tail, opcodeForm b = .f2 mk ∧ rest = imm :: tail ∧
        r = ⟨mk imm, lowNibble b, some imm, none⟩) ∨
      ∃ mk hi lo tail, opcodeForm b = .f3 mk ∧ rest = hi :: lo :: tail ∧
        r = ⟨mk (joinBytes hi lo), lowNibble b, none, some (joinBytes hi lo)⟩ := by
  unfold decodeRecord at h
  cases hf : opcodeForm b with
  | f1 i =>
    simp only [hf, Except.ok.injEq] at h
    exact .inl ⟨i, rfl, h.symm⟩
  | f2 mk =>
    match rest with
    | imm :: tail =>
      simp only [hf, Except.ok.injEq] at h
      exact .inr (.inl ⟨mk, imm, tail, rfl, rfl, h.symm⟩)
    | [] => simp [hf] at h
  | f3 mk =>
    match rest with
    | hi :: lo :: tail =>
      simp only [hf, Except.ok.injEq] at h
      exact .inr (.inr ⟨mk, hi, lo, tail, rfl, rfl, h.symm⟩)
    | [_] | [] => simp [hf] at h

/-- The register field is there in every format (30_encoding.md R73). -/
theorem decodeRecord_n {b : Byte} {rest : List Byte} {r : DecodedRecord}
    (h : decodeRecord (b :: rest) = .ok r) : r.n = lowNibble b := by
  obtain ⟨_, _, rfl⟩ | ⟨_, _, _, _, _, rfl⟩ | ⟨_, _, _, _, _, _, rfl⟩ := decodeRecord_cases h <;> rfl

/-- The record and the plain decoder read the same instruction, and fail alike. -/
theorem map_instr_decodeRecord (bytes : List Byte) :
    (decodeRecord bytes).map DecodedRecord.instr = (decode bytes).map Prod.fst := by
  cases bytes with
  | nil => rfl
  | cons b rest =>
    cases hf : opcodeForm b with
    | f1 i => simp [decodeRecord, decode, hf, Except.map]
    | f2 mk => cases rest <;> simp [decodeRecord, decode, hf, Except.map]
    | f3 mk =>
      match rest with
      | [] | [_] | _ :: _ :: _ => simp [decodeRecord, decode, hf, Except.map]

theorem exists_decodeRecord_of_decode {bytes rest : List Byte} {i : Instr}
    (h : decode bytes = .ok (i, rest)) : ∃ r, decodeRecord bytes = .ok r ∧ r.instr = i := by
  have hm := map_instr_decodeRecord bytes
  rw [h] at hm
  cases hr : decodeRecord bytes with
  | error e => rw [hr] at hm; cases hm
  | ok r => rw [hr] at hm; exact ⟨r, rfl, Except.ok.inj hm⟩

/-- Settles O1: the table gives back every encoding (`encodes_encode`), and the record reads the
same instruction from it; an encoding has a first byte because the empty slice does not decode. -/
theorem decodeInvertsEncode : Obligations.DecodeInvertsEncode := by
  intro i hi
  have henc : Encodes (encode i) i := encodes_encode hi
  have hdec : decode (encode i) = .ok (i, []) := by simpa using henc []
  refine ⟨henc, ?_⟩
  cases hb : encode i with
  | nil => rw [hb] at hdec; cases hdec
  | cons b tail =>
    obtain ⟨r, hr, hri⟩ := exists_decodeRecord_of_decode (hb ▸ hdec)
    exact ⟨b, tail, r, rfl, hr, hri, by rw [decodeRecord_n hr, toNat_lowNibble]⟩

/-! ### Formats and lengths -/

/-- Every instruction a format can be filled in to has the format's length. -/
def Form.LengthsAgree (f : Form) : Prop :=
  match f with
  | .f1 i => i.length = f.length
  | .f2 mk => ∀ imm, (mk imm).length = f.length
  | .f3 mk => ∀ addr, (mk addr).length = f.length

theorem opcodeRow3_lengthsAgree (b : Byte) : (opcodeRow3 b).LengthsAgree := by
  unfold opcodeRow3
  split <;> simp [Form.LengthsAgree, Form.length, Instr.length]

theorem opcodeRow6_lengthsAgree (b : Byte) : (opcodeRow6 b).LengthsAgree := by
  unfold opcodeRow6
  split_ifs <;> rfl

theorem opcodeRow7_lengthsAgree (b : Byte) : (opcodeRow7 b).LengthsAgree := by
  unfold opcodeRow7
  split <;> simp [Form.LengthsAgree, Form.length, Instr.length]

theorem opcodeRowC_lengthsAgree (b : Byte) : (opcodeRowC b).LengthsAgree := by
  unfold opcodeRowC
  split <;> simp [Form.LengthsAgree, Form.length, Instr.length]

theorem opcodeRowF_lengthsAgree (b : Byte) : (opcodeRowF b).LengthsAgree := by
  unfold opcodeRowF
  split <;> simp [Form.LengthsAgree, Form.length, Instr.length]

/-- The opcode table and `length(op)` agree on all 256 bytes (30_encoding.md R78, R81). -/
theorem opcodeForm_lengthsAgree (b : Byte) : (opcodeForm b).LengthsAgree := by
  unfold opcodeForm
  split
  case h_1 => split_ifs <;> rfl
  case h_4 => exact opcodeRow3_lengthsAgree b
  case h_7 => exact opcodeRow6_lengthsAgree b
  case h_8 => exact opcodeRow7_lengthsAgree b
  case h_13 => exact opcodeRowC_lengthsAgree b
  case h_16 => exact opcodeRowF_lengthsAgree b
  all_goals rfl

/-- Settles O4: one case of the record for each format, whose length the instruction has; the
address is the two bytes joined, by value. -/
theorem decodedRecordFields : Obligations.DecodedRecordFields := by
  intro b rest r h
  have hlen := opcodeForm_lengthsAgree b
  refine ⟨by rw [decodeRecord_n h, toNat_lowNibble], ?_⟩
  obtain ⟨i, hf, rfl⟩ | ⟨mk, imm, tail, hf, rfl, rfl⟩ | ⟨mk, hi, lo, tail, hf, rfl, rfl⟩ :=
    decodeRecord_cases h <;> rw [hf] at hlen
  · exact .inl ⟨hlen, rfl, rfl⟩
  · exact .inr (.inl ⟨hlen imm, ⟨imm, rfl, rfl⟩, rfl⟩)
  · exact .inr (.inr ⟨hlen _, rfl, hi, lo, _, rfl, rfl, rfl, toNat_joinBytes hi lo⟩)

end Sys2Proof

/-! The step cycle (40_step_cycle.md R102, R105, R108): every instruction executes, so a step can
fail only before its execute phase; and the execute phase leaves the counters to the step. -/

namespace Sys2Proof.Machine

/-! ### Execution is unconditional -/

/-- No meaning of an instruction is a fault or a refusal, whatever its operands: each is the next
state of an unconditional update. -/
theorem exec_eq_next (i : Instr) (s : State) : ∃ t, exec i s = .next t := by
  cases i <;> exact ⟨_, rfl⟩

/-- From a state that is not halted, a step fails only when nothing decodes. -/
theorem exists_step_of_decode {s : State} {i : Instr} {rest : List Byte} (h : s.halted = false)
    (hd : decode s.fetchBytes = .ok (i, rest)) :
    ∃ u, exec i (s.advance i.length) = .next u ∧ step s = .next u.finishStep := by
  obtain ⟨u, hu⟩ := exec_eq_next i (s.advance i.length)
  exact ⟨u, hu, step_of_exec h (fetch_eq_some.mpr ⟨rest, hd⟩) hu⟩

/-- Settles O9: each of the meanings is total, so a step whose instruction decodes goes through. -/
theorem executionIsUnconditional : Obligations.ExecutionIsUnconditional :=
  ⟨exec_eq_next, fun _ _ _ => exists_step_of_decode⟩

/-! ### The counters -/

theorem State.shortBranch_counters (s : State) (taken : Bool) (imm : Byte) :
    (s.shortBranch taken imm).cycles = s.cycles ∧
      (s.shortBranch taken imm).instrs = s.instrs := by
  obtain ⟨-, h⟩ | ⟨-, h⟩ := s.shortBranch_cases taken imm <;> simp [h]

theorem State.longBranch_counters (s : State) (taken : Bool) (addr : Addr) :
    (s.longBranch taken addr).cycles = s.cycles ∧
      (s.longBranch taken addr).instrs = s.instrs := by
  obtain ⟨-, h⟩ | ⟨-, h⟩ := s.longBranch_cases taken addr <;> simp [h]

theorem State.longSkip_counters (s : State) (skips : Bool) :
    (s.longSkip skips).cycles = s.cycles ∧ (s.longSkip skips).instrs = s.instrs := by
  obtain ⟨-, h⟩ | ⟨-, h⟩ := s.longSkip_cases skips <;> simp [h]

/-- No instruction writes a counter in its execute phase. A branch or skip may or may not move `pc`;
every other meaning is a fixed chain of updates, none of them to a counter. -/
theorem exec_counters {i : Instr} {s t : State} (h : exec i s = .next t) :
    t.cycles = s.cycles ∧ t.instrs = s.instrs := by
  cases i
  case br | bq | bz | bdf | b1 | b2 | b3 | b4 | bnq | bnz | bnf | bn1 | bn2 | bn3 | bn4 =>
    cases h; exact s.shortBranch_counters ..
  case lbr | lbq | lbz | lbdf | lbnq | lbnz | lbnf => cases h; exact s.longBranch_counters ..
  case nop | lsnq | lsnz | lsnf | lskp | lsie | lsq | lsz | lsdf =>
    cases h; exact s.longSkip_counters ..
  all_goals cases h; exact ⟨rfl, rfl⟩

@[simp] theorem State.advance_cycles (s : State) (len : Nat) :
    (s.advance len).cycles = s.cycles := rfl

@[simp] theorem State.advance_instrs (s : State) (len : Nat) :
    (s.advance len).instrs = s.instrs := rfl

/-- A successful step counts itself and nothing else: only `finishStep` writes the counters. -/
theorem step_counters {s t : State} (h : step s = .next t) :
    t.cycles = s.cycles + 1 ∧ t.instrs = s.instrs + 1 := by
  obtain ⟨-, i, u, -, hu, rfl⟩ := step_next h
  obtain ⟨hcycles, hinstrs⟩ := exec_counters hu
  simp [hcycles, hinstrs]

/-! ### The step that executes IDL -/

/-- The decoder is given the byte at `pc` at least: every address is below the top of memory. -/
theorem State.exists_fetchBytes_eq_cons (s : State) :
    ∃ rest, s.fetchBytes = s.readByte s.pc :: rest := by
  obtain ⟨k, hk⟩ : ∃ k, min longestInstr (memorySize - s.pc.toNat) = k + 1 :=
    Nat.exists_eq_add_one.mpr (by have := s.pc.isLt; simp [longestInstr, memorySize]; omega)
  simp [State.fetchBytes, fetchAddrs, hk, List.range_succ_eq_map]

theorem decode_fetchBytes_idl {s : State} (hb : s.readByte s.pc = 0x00) :
    ∃ rest, decode s.fetchBytes = .ok (.idl, rest) := by
  obtain ⟨rest, hrest⟩ := s.exists_fetchBytes_eq_cons
  rw [hrest, hb]
  exact ⟨rest, encodes_of_f1 rfl rest⟩

/-- Settles O12: a successful step counts once, and the byte 0x00 always decodes, to IDL, so its step
succeeds. -/
theorem successfulStepCountsOnce : Obligations.SuccessfulStepCountsOnce := by
  refine ⟨fun _ _ => step_counters, fun s hh hb => ?_⟩
  obtain ⟨rest, hd⟩ := decode_fetchBytes_idl hb
  obtain ⟨u, -, hstep⟩ := exists_step_of_decode hh hd
  exact ⟨_, hstep⟩

end Sys2Proof.Machine

/-! Memory reference through `R[N]` (41_memory_reference.md R120, R121, R124, R125): what each
single update leaves unchanged, how two frames compose, and from these the effect and frame of LDN,
LDA, LDI and STR. -/

namespace Sys2Proof.Machine

/-! ### The frames of the single updates -/

theorem SamePart.trans {part : Part} {s t u : State} (hst : SamePart part s t)
    (htu : SamePart part t u) : SamePart part s u := by
  cases part <;> exact Eq.trans htu hst

/-- Two updates in a row change at most what either of them does. -/
theorem ChangesOnly.trans {parts parts' : List Part} {regs regs' : List Nibble}
    {stored stored' : List Addr} {s t u : State} (hst : ChangesOnly parts regs stored s t)
    (htu : ChangesOnly parts' regs' stored' t u) :
    ChangesOnly (parts ++ parts') (regs ++ regs') (stored ++ stored') s u where
  parts part h := (hst.parts part (mt (List.mem_append_left _) h)).trans
    (htu.parts part (mt (List.mem_append_right _) h))
  regs n h := (htu.regs n (mt (List.mem_append_right _) h)).trans
    (hst.regs n (mt (List.mem_append_left _) h))
  memory a h := (htu.memory a (mt (List.mem_append_right _) h)).trans
    (hst.memory a (mt (List.mem_append_left _) h))
  cycles := htu.cycles.trans hst.cycles
  instrs := htu.instrs.trans hst.instrs
  inputs := htu.inputs.trans hst.inputs
  sample := htu.sample.trans hst.sample
  epoch := htu.epoch.trans hst.epoch

theorem changesOnly_setD (s : State) (b : Byte) : ChangesOnly [.d] [] [] s (s.setD b) where
  parts part h := by
    cases part
    case d => exact absurd (List.mem_singleton_self _) h
    all_goals rfl
  regs _ _ := rfl
  memory _ _ := rfl
  cycles := rfl
  instrs := rfl
  inputs := rfl
  sample := rfl
  epoch := rfl

theorem changesOnly_setReg (s : State) (i : Nibble) (v : Addr) :
    ChangesOnly [] [i] [] s (s.setReg i v) where
  parts part _ := by cases part <;> rfl
  regs _ h := s.reg_setReg_of_ne (List.ne_of_not_mem_cons h).symm v
  memory _ _ := rfl
  cycles := rfl
  instrs := rfl
  inputs := rfl
  sample := rfl
  epoch := rfl

theorem changesOnly_writeByte (s : State) (a : Addr) (v : Byte) :
    ChangesOnly [] [] [a] s (s.writeByte a v) where
  parts part _ := by cases part <;> rfl
  regs _ _ := rfl
  memory _ h := s.readByte_writeByte_of_ne (List.ne_of_not_mem_cons h) v
  cycles := rfl
  instrs := rfl
  inputs := rfl
  sample := rfl
  epoch := rfl

/-- Incrementing a register wraps at 16 bits (10_state.md R22). -/
theorem State.toNat_reg_incReg_same (s : State) (i : Nibble) :
    ((s.incReg i).reg i).toNat = ((s.reg i).toNat + 1) % 65536 := by
  simp [State.incReg_eq]

/-! ### Loads and the store through N -/

theorem exec_ldn (n : Nibble) (s : State) :
    exec (.ldn n) s = .next (s.setD (s.readByte (s.reg n))) := rfl

theorem exec_lda (n : Nibble) (s : State) :
    exec (.lda n) s = .next ((s.setD (s.readByte (s.reg n))).incReg n) := rfl

theorem exec_ldi (imm : Byte) (s : State) : exec (.ldi imm) s = .next (s.setD imm) := rfl

theorem exec_str (n : Nibble) (s : State) :
    exec (.str n) s = .next (s.writeByte (s.reg n) s.d) := rfl

/-- Settles O19: the opcode table has each of the bytes, and each next state is an update of `D`,
one of a register after it, or one of memory, whose frames are known. -/
theorem loadAndStoreThroughN : Obligations.LoadAndStoreThroughN := by
  intro s n imm
  refine ⟨fun hn => encodes_of_f1 (opcodeForm_ldn hn), encodes_of_f1 (opcodeForm_lda n),
    encodes_of_f2 rfl imm, encodes_of_f1 (opcodeForm_str n), fun _ => ?ldn, ?lda, ?ldi, ?str⟩
  case ldn => exact ⟨_, exec_ldn n s, setD_d s _, changesOnly_setD s _⟩
  case lda =>
    exact ⟨_, exec_lda n s, setD_d s _, State.toNat_reg_incReg_same _ n,
      (changesOnly_setD s _).trans (changesOnly_setReg _ n _)⟩
  case ldi => exact ⟨_, exec_ldi imm s, setD_d s imm, changesOnly_setD s imm⟩
  case str =>
    exact ⟨_, exec_str n s, s.readByte_writeByte_same _ _, changesOnly_writeByte s _ _⟩

end Sys2Proof.Machine

/-! Register operations on `R[N]` (42_register_ops.md R130, R131, R136): INC, DEC and PHI each write
that one register, so the value written is all there is to show beside the known frame. -/

namespace Sys2Proof.Machine

/-- Decrementing a register wraps at 16 bits (10_state.md R22). -/
theorem State.toNat_reg_decReg_same (s : State) (i : Nibble) :
    ((s.decReg i).reg i).toNat = ((s.reg i).toNat + 65535) % 65536 := by
  simp [State.decReg_eq, BitVec.toNat_sub, Nat.add_comm]

theorem exec_inc (n : Nibble) (s : State) : exec (.inc n) s = .next (s.incReg n) := rfl

theorem exec_dec (n : Nibble) (s : State) : exec (.dec n) s = .next (s.decReg n) := rfl

theorem exec_phi (n : Nibble) (s : State) :
    exec (.phi n) s = .next (s.setReg n (joinBytes s.d (lowByte (s.reg n)))) := rfl

/-- Settles O21: INC and DEC are the two wrapping updates of a register, whose frame is that of any
register write. -/
theorem incrementAndDecrementWrap : Obligations.IncrementAndDecrementWrap := by
  intro s n
  refine ⟨encodes_of_f1 (opcodeForm_inc n), encodes_of_f1 (opcodeForm_dec n), ?inc, ?dec⟩
  case inc => exact ⟨_, exec_inc n s, s.toNat_reg_incReg_same n, changesOnly_setReg s n _⟩
  case dec => exact ⟨_, exec_dec n s, s.toNat_reg_decReg_same n, changesOnly_setReg s n _⟩

/-- Settles O22: PHI writes `D` joined to the old low byte, and joining bytes is known by value. -/
theorem phiPutsHighByte : Obligations.PhiPutsHighByte := by
  intro s n
  refine ⟨encodes_of_f1 (opcodeForm_phi n), _, exec_phi n s, ?value, changesOnly_setReg s n _⟩
  case value => rw [State.reg_setReg_same, toNat_joinBytes, toNat_lowByte]

end Sys2Proof.Machine

/-! Sums and differences (43_arithmetic.md R140 to R147, R150, R151): every one of these instructions
writes one result pair, so value, flag and frame are shown once for a sum and once for a difference. -/

namespace Sys2Proof.Machine

/-! ### Writing a result to D and DF -/

theorem changesOnly_setDf (s : State) (c : Bool) : ChangesOnly [.df] [] [] s (s.setDf c) where
  parts part h := by
    cases part
    case df => exact absurd (List.mem_singleton_self _) h
    all_goals rfl
  regs _ _ := rfl
  memory _ _ := rfl
  cycles := rfl
  instrs := rfl
  inputs := rfl
  sample := rfl
  epoch := rfl

theorem changesOnly_setResult (s : State) (r : Byte × Bool) :
    ChangesOnly [.d, .df] [] [] s (s.setResult r) :=
  (changesOnly_setD s r.1).trans (changesOnly_setDf _ r.2)

theorem sumInD_setResult_addBytes (s : State) (b : Byte) (carry : Bool) :
    SumInD b carry.toNat s (s.setResult (addBytes s.d b carry)) := by
  obtain ⟨hsum, hcarry⟩ := addBytes_spec s.d b carry
  exact ⟨hsum, hcarry, changesOnly_setResult s _⟩

/-- No borrow, by value, is a true difference that is not negative. -/
theorem differenceInD_setResult_subBytes (s : State) (a b : Byte) (borrow : Bool) :
    DifferenceInD a b borrow.toNat s (s.setResult (subBytes a b borrow)) := by
  obtain ⟨hdiff, hnoBorrow⟩ := subBytes_spec a b borrow
  refine ⟨hdiff, hnoBorrow.trans ?_, changesOnly_setResult s _⟩
  omega

/-- The carry of a sum of bytes and an old carry is the OR of the carries of its two addition steps
(R144): if the first step has none, its result is the sum itself. -/
theorem SumInD.df_iff_either_carry {b : Byte} {carry : Nat} {s t : State}
    (h : SumInD b carry s t) :
    t.df = true ↔ 256 ≤ s.d.toNat + b.toNat ∨ 256 ≤ (s.d.toNat + b.toNat) % 256 + carry := by
  obtain ⟨-, hcarry, -⟩ := h
  rw [hcarry]
  omega

/-! ### Additions -/

theorem exec_add (s : State) :
    exec .add s = .next (s.setResult (addBytes s.d (s.readByte (s.reg s.x)) false)) := rfl

theorem exec_adi (imm : Byte) (s : State) :
    exec (.adi imm) s = .next (s.setResult (addBytes s.d imm false)) := rfl

theorem exec_adc (s : State) :
    exec .adc s = .next (s.setResult (addBytes s.d (s.readByte (s.reg s.x)) s.df)) := rfl

theorem exec_adci (imm : Byte) (s : State) :
    exec (.adci imm) s = .next (s.setResult (addBytes s.d imm s.df)) := rfl

/-- Settles O25: each of the four writes the sum of two bytes and a carry, which is 0 or the old
`DF`; with the old `DF`, the carry out is also that of either step. -/
theorem addLaws : Obligations.AddLaws := by
  rintro s imm _ rfl
  have hsum := sumInD_setResult_addBytes s
  refine ⟨encodes_of_f1 rfl, encodes_of_f2 rfl imm, encodes_of_f1 rfl, encodes_of_f2 rfl imm,
    ?add, ?adi, ?adc, ?adci⟩
  case add => exact ⟨_, exec_add s, hsum _ false⟩
  case adi => exact ⟨_, exec_adi imm s, hsum imm false⟩
  case adc => exact ⟨_, exec_adc s, hsum _ s.df, (hsum _ s.df).df_iff_either_carry⟩
  case adci => exact ⟨_, exec_adci imm s, hsum imm s.df, (hsum imm s.df).df_iff_either_carry⟩

/-! ### Subtractions -/

theorem exec_sd (s : State) :
    exec .sd s = .next (s.setResult (subBytes (s.readByte (s.reg s.x)) s.d false)) := rfl

theorem exec_sdi (imm : Byte) (s : State) :
    exec (.sdi imm) s = .next (s.setResult (subBytes imm s.d false)) := rfl

theorem exec_sm (s : State) :
    exec .sm s = .next (s.setResult (subBytes s.d (s.readByte (s.reg s.x)) false)) := rfl

theorem exec_smi (imm : Byte) (s : State) :
    exec (.smi imm) s = .next (s.setResult (subBytes s.d imm false)) := rfl

/-- Settles O26: each of the four writes the difference of two bytes without a borrow, in one order
or the other. -/
theorem subtractLaws : Obligations.SubtractLaws := by
  rintro s imm _ rfl
  have hdiff := differenceInD_setResult_subBytes s
  refine ⟨encodes_of_f1 rfl, encodes_of_f2 rfl imm, encodes_of_f1 rfl, encodes_of_f2 rfl imm,
    ?sd, ?sdi, ?sm, ?smi⟩
  case sd => exact ⟨_, exec_sd s, hdiff _ s.d false⟩
  case sdi => exact ⟨_, exec_sdi imm s, hdiff imm s.d false⟩
  case sm => exact ⟨_, exec_sm s, hdiff s.d _ false⟩
  case smi => exact ⟨_, exec_smi imm s, hdiff s.d imm false⟩

end Sys2Proof.Machine

/-! Logic and shifts (44_logic_shift.md R160 to R169): a logic instruction is one update of `D`; a
shift writes a result pair, known by value and bit by bit, and with the old `DF` as fill it rotates
the nine bits of `D` and `DF`. -/

namespace Sys2Proof.Machine

/-! ### Logic -/

theorem exec_or (s : State) :
    exec .or s = .next (s.setD (s.d ||| s.readByte (s.reg s.x))) := rfl

theorem exec_ori (imm : Byte) (s : State) :
    exec (.ori imm) s = .next (s.setD (s.d ||| imm)) := rfl

theorem exec_xor (s : State) :
    exec .xor s = .next (s.setD (s.d ^^^ s.readByte (s.reg s.x))) := rfl

theorem exec_xri (imm : Byte) (s : State) :
    exec (.xri imm) s = .next (s.setD (s.d ^^^ imm)) := rfl

theorem exec_and (s : State) :
    exec .and s = .next (s.setD (s.d &&& s.readByte (s.reg s.x))) := rfl

theorem exec_ani (imm : Byte) (s : State) :
    exec (.ani imm) s = .next (s.setD (s.d &&& imm)) := rfl

/-- Settles O28: each of the six is one update of `D`, whose frame leaves `DF` out. -/
theorem logicLeavesDf : Obligations.LogicLeavesDf := by
  rintro s imm _ rfl
  refine ⟨encodes_of_f1 rfl, encodes_of_f2 rfl imm, encodes_of_f1 rfl, encodes_of_f2 rfl imm,
    encodes_of_f1 rfl, encodes_of_f2 rfl imm, ?or, ?ori, ?xor, ?xri, ?and, ?ani⟩
  case or => exact ⟨_, exec_or s, setD_d s _, changesOnly_setD s _⟩
  case ori => exact ⟨_, exec_ori imm s, setD_d s _, changesOnly_setD s _⟩
  case xor => exact ⟨_, exec_xor s, setD_d s _, changesOnly_setD s _⟩
  case xri => exact ⟨_, exec_xri imm s, setD_d s _, changesOnly_setD s _⟩
  case and => exact ⟨_, exec_and s, setD_d s _, changesOnly_setD s _⟩
  case ani => exact ⟨_, exec_ani imm s, setD_d s _, changesOnly_setD s _⟩

/-! ### Shifts by value -/

/-- A shift to the right, by value: the fill is worth 128, and the bit shifted out is the parity. -/
theorem shiftRightByte_spec (a : Byte) (fill : Bool) :
    (shiftRightByte a fill).1.toNat = fill.toNat * 128 + a.toNat / 2 ∧
      ((shiftRightByte a fill).2 = true ↔ a.toNat % 2 = 1) := by
  have hfill : ((BitVec.ofBool fill).setWidth 8 <<< 7).toNat = 2 ^ 7 * fill.toNat := by
    cases fill <;> rfl
  have hhalf : a.toNat / 2 < 2 ^ 7 := by have := a.isLt; omega
  constructor
  · calc (shiftRightByte a fill).1.toNat
        = 2 ^ 7 * fill.toNat ||| a.toNat / 2 := by
          rw [shiftRightByte, BitVec.toNat_or, hfill, BitVec.toNat_ushiftRight,
            Nat.shiftRight_eq_div_pow, Nat.pow_one]
      _ = fill.toNat * 128 + a.toNat / 2 := by
          rw [← Nat.two_pow_add_eq_or_of_lt hhalf, Nat.mul_comm]
  · simp [shiftRightByte, BitVec.getLsbD]

/-- A shift to the left, by value: the fill is worth 1, and the bit shifted out is worth 128. -/
theorem shiftLeftByte_spec (a : Byte) (fill : Bool) :
    (shiftLeftByte a fill).1.toNat = a.toNat * 2 % 256 + fill.toNat ∧
      ((shiftLeftByte a fill).2 = true ↔ 128 ≤ a.toNat) := by
  have hfill : ((BitVec.ofBool fill).setWidth 8).toNat = fill.toNat := by cases fill <;> rfl
  have hdouble : (a <<< 1).toNat = 2 ^ 1 * (a.toNat % 128) := by
    rw [BitVec.toNat_shiftLeft, Nat.shiftLeft_eq]
    omega
  constructor
  · calc (shiftLeftByte a fill).1.toNat
        = 2 ^ 1 * (a.toNat % 128) ||| fill.toNat := by
          rw [shiftLeftByte, BitVec.toNat_or, hfill, hdouble]
      _ = 2 ^ 1 * (a.toNat % 128) + fill.toNat :=
          (Nat.two_pow_add_eq_or_of_lt fill.toNat_lt _).symm
      _ = a.toNat * 2 % 256 + fill.toNat := by omega
  · calc (shiftLeftByte a fill).2 = true
        ↔ a.msb = true := by rw [shiftLeftByte, BitVec.msb_eq_getLsbD_last]
      _ ↔ 128 ≤ a.toNat := by simp [BitVec.msb_eq_decide]

/-! ### Nine rotations -/

/-- `D` and `DF` read as one word of nine bits, `DF` the most significant. -/
def rotationWord (r : Byte × Bool) : BitVec 9 := BitVec.cons r.2 r.1

theorem rotationWord_injective : Function.Injective rotationWord := by
  have hinv : Function.LeftInverse (fun w : BitVec 9 => (w.setWidth 8, w.msb)) rotationWord :=
    fun r => by simp [rotationWord]
  exact hinv.injective

theorem getLsbD_rotationWord (r : Byte × Bool) (i : Nat) :
    (rotationWord r).getLsbD i = if i = 8 then r.2 else r.1.getLsbD i :=
  BitVec.getLsbD_cons r.2 r.1 i

theorem getLsbD_shiftRightByte (a : Byte) (fill : Bool) {i : Nat} (hi : i < 8) :
    (shiftRightByte a fill).1.getLsbD i = if i = 7 then fill else a.getLsbD (i + 1) := by
  obtain rfl | hlow : i = 7 ∨ i < 7 := by omega
  · simp [shiftRightByte]
  · simp [shiftRightByte, hlow, hlow.ne, hi, Nat.add_comm]

/-- A shift to the right with the carry as fill moves every bit of the word one place down. -/
theorem getLsbD_rotationWord_shiftRightByte (r : Byte × Bool) {i : Nat} (hi : i < 9) :
    (rotationWord (shiftRightByte.uncurry r)).getLsbD i =
      (rotationWord r).getLsbD ((i + 1) % 9) := by
  rw [getLsbD_rotationWord, getLsbD_rotationWord, Function.uncurry]
  obtain rfl | hlow : i = 8 ∨ i < 8 := by omega
  · rfl
  · have hnext : (i + 1) % 9 = i + 1 := Nat.mod_eq_of_lt (by omega)
    simp [getLsbD_shiftRightByte r.1 r.2 hlow, hnext, hlow.ne]

theorem getLsbD_rotationWord_iterate_shiftRightByte (k : Nat) (r : Byte × Bool) {i : Nat}
    (hi : i < 9) :
    (rotationWord (shiftRightByte.uncurry^[k] r)).getLsbD i =
      (rotationWord r).getLsbD ((i + k) % 9) := by
  induction k generalizing r with
  | zero => simp [Nat.mod_eq_of_lt hi]
  | succ k ih =>
    rw [Function.iterate_succ_apply, ih,
      getLsbD_rotationWord_shiftRightByte _ (Nat.mod_lt _ (by decide)), Nat.mod_add_mod,
      Nat.add_assoc]

theorem iterate_shiftRightByte_nine (r : Byte × Bool) : shiftRightByte.uncurry^[9] r = r := by
  refine rotationWord_injective (BitVec.eq_of_getLsbD_eq fun i hi => ?_)
  rw [getLsbD_rotationWord_iterate_shiftRightByte 9 r hi, Nat.add_mod_right, Nat.mod_eq_of_lt hi]

/-- A rotation to the left takes back a rotation to the right: the byte on the way is the half of
`a` and 128 times the carry. -/
theorem shiftLeftByte_shiftRightByte (a : Byte) (c : Bool) :
    shiftLeftByte (shiftRightByte a c).1 (shiftRightByte a c).2 = (a, c) := by
  have ha : a.toNat < 256 := a.isLt
  have hc : c.toNat < 2 := c.toNat_lt
  obtain ⟨hhalf, hparity⟩ := shiftRightByte_spec a c
  generalize shiftRightByte a c = r at hhalf hparity ⊢
  obtain ⟨hd, hdf⟩ := shiftLeftByte_spec r.1 r.2
  have hout : r.2.toNat = a.toNat % 2 := by
    have := r.2.toNat_lt
    rw [← Bool.toNat_eq_one] at hparity
    omega
  have hbyte : (shiftLeftByte r.1 r.2).1.toNat = a.toNat := by omega
  have hcarry : (shiftLeftByte r.1 r.2).2 = true ↔ c = true := by
    rw [hdf, ← Bool.toNat_eq_one]
    omega
  exact Prod.ext (BitVec.eq_of_toNat_eq hbyte) (Bool.eq_iff_iff.mpr hcarry)

theorem iterate_shiftLeftByte_nine (r : Byte × Bool) : shiftLeftByte.uncurry^[9] r = r := by
  have hinv : Function.LeftInverse shiftLeftByte.uncurry shiftRightByte.uncurry :=
    fun r => shiftLeftByte_shiftRightByte r.1 r.2
  calc shiftLeftByte.uncurry^[9] r
      = shiftLeftByte.uncurry^[9] (shiftRightByte.uncurry^[9] r) := by
        rw [iterate_shiftRightByte_nine]
    _ = r := hinv.iterate 9 r

/-! ### Shift instructions -/

theorem exec_shr (s : State) :
    exec .shr s = .next (s.setResult (shiftRightByte s.d false)) := rfl

theorem exec_shrc (s : State) :
    exec .shrc s = .next (s.setResult (shiftRightByte s.d s.df)) := rfl

theorem exec_shl (s : State) :
    exec .shl s = .next (s.setResult (shiftLeftByte s.d false)) := rfl

theorem exec_shlc (s : State) :
    exec .shlc s = .next (s.setResult (shiftLeftByte s.d s.df)) := rfl

theorem repeatExec_succ {i : Instr} {s t : State} (h : exec i s = .next t) (k : Nat) :
    repeatExec i (k + 1) s = repeatExec i k t := by
  rw [repeatExec, h]

/-- Repeating an instruction that writes a result of `D` and `DF` alone iterates that result. -/
theorem exists_repeatExec_of_setResult {i : Instr} {f : Byte → Bool → Byte × Bool}
    (h : ∀ s, exec i s = .next (s.setResult (f s.d s.df))) (k : Nat) (s : State) :
    ∃ t, repeatExec i k s = .next t ∧ (t.d, t.df) = f.uncurry^[k] (s.d, s.df) := by
  induction k generalizing s with
  | zero => exact ⟨s, rfl, rfl⟩
  | succ k ih =>
    obtain ⟨t, ht, hd⟩ := ih (s.setResult (f s.d s.df))
    exact ⟨t, (repeatExec_succ (h s) k).trans ht, hd⟩

/-- So an instruction whose result is restored by `k` repetitions restores `D` and `DF`. -/
theorem exists_repeatExec_of_iterate_eq {i : Instr} {f : Byte → Bool → Byte × Bool}
    (h : ∀ s, exec i s = .next (s.setResult (f s.d s.df))) {k : Nat}
    (hk : ∀ r, f.uncurry^[k] r = r) (s : State) :
    ∃ t, repeatExec i k s = .next t ∧ t.d = s.d ∧ t.df = s.df := by
  obtain ⟨t, ht, hd⟩ := exists_repeatExec_of_setResult h k s
  exact ⟨t, ht, Prod.mk.inj (hd.trans (hk _))⟩

/-- Settles O29: each of the four writes a shift whose value is known, with 0 or the old `DF` as
fill; with the old `DF`, nine of them are the identity. -/
theorem shiftResults : Obligations.ShiftResults := by
  intro s
  have hright := shiftRightByte_spec s.d
  have hleft := shiftLeftByte_spec s.d
  refine ⟨encodes_of_f1 rfl, encodes_of_f1 rfl, encodes_of_f1 rfl, encodes_of_f1 rfl,
    ?shr, ?shrc, ?shl, ?shlc, ?nineShrc, ?nineShlc⟩
  case shr =>
    obtain ⟨hd, hdf⟩ := hright false
    exact ⟨_, exec_shr s, hd.trans (by simp), hdf, changesOnly_setResult s _⟩
  case shrc =>
    obtain ⟨hd, hdf⟩ := hright s.df
    exact ⟨_, exec_shrc s, hd, hdf, changesOnly_setResult s _⟩
  case shl =>
    obtain ⟨hd, hdf⟩ := hleft false
    exact ⟨_, exec_shl s, hd, hdf, changesOnly_setResult s _⟩
  case shlc =>
    obtain ⟨hd, hdf⟩ := hleft s.df
    exact ⟨_, exec_shlc s, hd, hdf, changesOnly_setResult s _⟩
  case nineShrc => exact exists_repeatExec_of_iterate_eq exec_shrc iterate_shiftRightByte_nine s
  case nineShlc => exact exists_repeatExec_of_iterate_eq exec_shlc iterate_shiftLeftByte_nine s

end Sys2Proof.Machine

/-! Short branches (45_short_branch.md R180): every one of them is `shortBranch` on its own
condition, so value and frame are shown once, for whatever proposition the condition tests. -/

namespace Sys2Proof.Machine

/-! ### Writing or keeping the program counter -/

theorem changesOnly_self (parts : List Part) (regs : List Nibble) (stored : List Addr) (s : State) :
    ChangesOnly parts regs stored s s where
  parts part _ := by cases part <;> rfl
  regs _ _ := rfl
  memory _ _ := rfl
  cycles := rfl
  instrs := rfl
  inputs := rfl
  sample := rfl
  epoch := rfl

theorem pcBecomes_self (s : State) : PcBecomes s.pc.toNat s s :=
  ⟨rfl, changesOnly_self _ _ _ s⟩

theorem pcBecomes_setReg_p (s : State) (v : Addr) : PcBecomes v.toNat s (s.setReg s.p v) :=
  ⟨congrArg BitVec.toNat (s.reg_setReg_same s.p v), changesOnly_setReg s s.p v⟩

/-- The high byte kept is that of the state the branch runs on, which is the advanced one
(92_eei_decisions.md D13). -/
theorem pcBecomes_shortBranch_true (s : State) (imm : Byte) :
    PcBecomes (s.pc.toNat / 256 * 256 + imm.toNat) s (s.shortBranch true imm) := by
  have h := pcBecomes_setReg_p s (joinBytes (highByte s.pc) imm)
  rwa [toNat_joinBytes, toNat_highByte] at h

theorem pcBecomes_shortBranch {taken : Bool} {c : Prop} [Decidable c] (h : taken = true ↔ c)
    (s : State) (imm : Byte) :
    PcBecomes (if c then s.pc.toNat / 256 * 256 + imm.toNat else s.pc.toNat) s
      (s.shortBranch taken imm) := by
  cases taken with
  | true =>
    rw [if_pos (h.mp rfl)]
    exact pcBecomes_shortBranch_true s imm
  | false =>
    rw [if_neg fun hc => Bool.false_ne_true (h.mpr hc)]
    exact pcBecomes_self s

/-! ### The branches on Q, D and DF -/

theorem State.not_dIsZero_iff (s : State) : (!s.dIsZero) = true ↔ s.d ≠ 0 := by
  rw [Bool.not_eq_true', ← Bool.not_eq_true, s.dIsZero_iff]

theorem exec_br (imm : Byte) (s : State) : exec (.br imm) s = .next (s.shortBranch true imm) := rfl

theorem exec_bq (imm : Byte) (s : State) : exec (.bq imm) s = .next (s.shortBranch s.q imm) := rfl

theorem exec_bz (imm : Byte) (s : State) :
    exec (.bz imm) s = .next (s.shortBranch s.dIsZero imm) := rfl

theorem exec_bdf (imm : Byte) (s : State) :
    exec (.bdf imm) s = .next (s.shortBranch s.df imm) := rfl

theorem exec_bnq (imm : Byte) (s : State) :
    exec (.bnq imm) s = .next (s.shortBranch (!s.q) imm) := rfl

theorem exec_bnz (imm : Byte) (s : State) :
    exec (.bnz imm) s = .next (s.shortBranch (!s.dIsZero) imm) := rfl

theorem exec_bnf (imm : Byte) (s : State) :
    exec (.bnf imm) s = .next (s.shortBranch (!s.df) imm) := rfl

/-- Settles O30: each of the seven is a short branch, and the Boolean it branches on is true exactly
when its condition on `Q`, `D` or `DF` holds. -/
theorem shortBranchesOnState : Obligations.ShortBranchesOnState := by
  intro s imm
  refine ⟨encodes_of_f2 rfl imm, encodes_of_f2 rfl imm, encodes_of_f2 rfl imm,
    encodes_of_f2 rfl imm, encodes_of_f2 rfl imm, encodes_of_f2 rfl imm, encodes_of_f2 rfl imm,
    ?br, ?bq, ?bz, ?bdf, ?bnq, ?bnz, ?bnf⟩
  case br => exact ⟨_, exec_br imm s, pcBecomes_shortBranch_true s imm⟩
  case bq => exact ⟨_, exec_bq imm s, pcBecomes_shortBranch .rfl s imm⟩
  case bz => exact ⟨_, exec_bz imm s, pcBecomes_shortBranch s.dIsZero_iff s imm⟩
  case bdf => exact ⟨_, exec_bdf imm s, pcBecomes_shortBranch .rfl s imm⟩
  case bnq => exact ⟨_, exec_bnq imm s, pcBecomes_shortBranch (Bool.not_eq_true' s.q).to_iff s imm⟩
  case bnz => exact ⟨_, exec_bnz imm s, pcBecomes_shortBranch s.not_dIsZero_iff s imm⟩
  case bnf => exact ⟨_, exec_bnf imm s, pcBecomes_shortBranch (Bool.not_eq_true' s.df).to_iff s imm⟩

end Sys2Proof.Machine

/-! Long branches and long skips on Q, D and DF (46_long_branch_skip.md R200, R208): a long skip is
the long branch to `pc + 2`, so value and frame are shown once, for the long branch. -/

namespace Sys2Proof.Machine

theorem pcBecomes_longBranch {taken : Bool} {c : Prop} [Decidable c] (h : taken = true ↔ c)
    (s : State) (addr : Addr) :
    PcBecomes (if c then addr.toNat else s.pc.toNat) s (s.longBranch taken addr) := by
  obtain ⟨hout, hs⟩ | ⟨htaken, hs⟩ := s.longBranch_cases taken addr
  · rw [hs, if_neg fun hc => Bool.false_ne_true (hout.symm.trans (h.mpr hc))]
    exact pcBecomes_self s
  · rw [hs, if_pos (h.mp htaken)]
    exact pcBecomes_setReg_p s addr

theorem State.longSkip_eq_longBranch (s : State) (skips : Bool) :
    s.longSkip skips = s.longBranch skips (s.pc + 2) := rfl

theorem pcBecomes_longSkip {skips : Bool} {c : Prop} [Decidable c] (h : skips = true ↔ c)
    (s : State) :
    PcBecomes (if c then (s.pc.toNat + 2) % 65536 else s.pc.toNat) s (s.longSkip skips) := by
  have hwrap : (s.pc + 2).toNat = (s.pc.toNat + 2) % 65536 := BitVec.toNat_add s.pc 2
  rw [← hwrap, s.longSkip_eq_longBranch]
  exact pcBecomes_longBranch h s (s.pc + 2)

/-! ### Long branches -/

theorem exec_lbq (addr : Addr) (s : State) :
    exec (.lbq addr) s = .next (s.longBranch s.q addr) := rfl

theorem exec_lbz (addr : Addr) (s : State) :
    exec (.lbz addr) s = .next (s.longBranch s.dIsZero addr) := rfl

theorem exec_lbdf (addr : Addr) (s : State) :
    exec (.lbdf addr) s = .next (s.longBranch s.df addr) := rfl

theorem exec_lbnq (addr : Addr) (s : State) :
    exec (.lbnq addr) s = .next (s.longBranch (!s.q) addr) := rfl

theorem exec_lbnz (addr : Addr) (s : State) :
    exec (.lbnz addr) s = .next (s.longBranch (!s.dIsZero) addr) := rfl

theorem exec_lbnf (addr : Addr) (s : State) :
    exec (.lbnf addr) s = .next (s.longBranch (!s.df) addr) := rfl

/-- The address of a three-byte instruction is its two bytes joined, high byte first
(30_encoding.md R75). -/
theorem eq_joinBytes_of_toNat {addr : Addr} {hi lo : Byte}
    (h : addr.toNat = hi.toNat * 256 + lo.toNat) : addr = joinBytes hi lo :=
  BitVec.eq_of_toNat_eq (h.trans (toNat_joinBytes hi lo).symm)

/-- Settles O33: each of the six is a long branch to the joined address, and the Boolean it branches
on is true exactly when its condition on `Q`, `D` or `DF` holds. -/
theorem longBranchesOnState : Obligations.LongBranchesOnState := by
  intro s hi lo addr haddr
  obtain rfl := eq_joinBytes_of_toNat haddr
  refine ⟨encodes_of_f3 rfl hi lo, encodes_of_f3 rfl hi lo, encodes_of_f3 rfl hi lo,
    encodes_of_f3 rfl hi lo, encodes_of_f3 rfl hi lo, encodes_of_f3 rfl hi lo,
    ?lbq, ?lbz, ?lbdf, ?lbnq, ?lbnz, ?lbnf⟩
  case lbq => exact ⟨_, exec_lbq _ s, pcBecomes_longBranch .rfl s _⟩
  case lbz => exact ⟨_, exec_lbz _ s, pcBecomes_longBranch s.dIsZero_iff s _⟩
  case lbdf => exact ⟨_, exec_lbdf _ s, pcBecomes_longBranch .rfl s _⟩
  case lbnq => exact ⟨_, exec_lbnq _ s, pcBecomes_longBranch (Bool.not_eq_true' s.q).to_iff s _⟩
  case lbnz => exact ⟨_, exec_lbnz _ s, pcBecomes_longBranch s.not_dIsZero_iff s _⟩
  case lbnf => exact ⟨_, exec_lbnf _ s, pcBecomes_longBranch (Bool.not_eq_true' s.df).to_iff s _⟩

/-! ### Long skips -/

theorem exec_lsnq (s : State) : exec .lsnq s = .next (s.longSkip (!s.q)) := rfl

theorem exec_lsnz (s : State) : exec .lsnz s = .next (s.longSkip (!s.dIsZero)) := rfl

theorem exec_lsnf (s : State) : exec .lsnf s = .next (s.longSkip (!s.df)) := rfl

theorem exec_lsq (s : State) : exec .lsq s = .next (s.longSkip s.q) := rfl

theorem exec_lsz (s : State) : exec .lsz s = .next (s.longSkip s.dIsZero) := rfl

theorem exec_lsdf (s : State) : exec .lsdf s = .next (s.longSkip s.df) := rfl

/-- Settles O34: each of the six is a long skip on the condition in its name
(92_eei_decisions.md D15). -/
theorem longSkipsOnState : Obligations.LongSkipsOnState := by
  intro s
  refine ⟨encodes_of_f1 rfl, encodes_of_f1 rfl, encodes_of_f1 rfl, encodes_of_f1 rfl,
    encodes_of_f1 rfl, encodes_of_f1 rfl, ?lsnq, ?lsnz, ?lsnf, ?lsq, ?lsz, ?lsdf⟩
  case lsnq => exact ⟨_, exec_lsnq s, pcBecomes_longSkip (Bool.not_eq_true' s.q).to_iff s⟩
  case lsnz => exact ⟨_, exec_lsnz s, pcBecomes_longSkip s.not_dIsZero_iff s⟩
  case lsnf => exact ⟨_, exec_lsnf s, pcBecomes_longSkip (Bool.not_eq_true' s.df).to_iff s⟩
  case lsq => exact ⟨_, exec_lsq s, pcBecomes_longSkip .rfl s⟩
  case lsz => exact ⟨_, exec_lsz s, pcBecomes_longSkip s.dIsZero_iff s⟩
  case lsdf => exact ⟨_, exec_lsdf s, pcBecomes_longSkip .rfl s⟩

end Sys2Proof.Machine

/-! IDL (47_control.md R220): its execute phase sets the halt latch alone, and the step around it is
written out as one state, from which what that step leaves and why the next one fails are read off. -/

namespace Sys2Proof.Machine

theorem changesOnly_setHalted (s : State) (c : Bool) :
    ChangesOnly [.halted] [] [] s (s.setHalted c) where
  parts part h := by
    cases part
    case halted => exact absurd (List.mem_singleton_self _) h
    all_goals rfl
  regs _ _ := rfl
  memory _ _ := rfl
  cycles := rfl
  instrs := rfl
  inputs := rfl
  sample := rfl
  epoch := rfl

/-- The step of a one-byte instruction advances `pc` as INC of `R[P]` would. -/
theorem State.advance_one (s : State) : s.advance 1 = s.incReg s.p := rfl

theorem step_idl {s : State} (h : s.halted = false) (hb : s.readByte s.pc = 0x00) :
    step s = .next ((s.incReg s.p).setHalted true).finishStep := by
  have hf : s.fetch = some .idl := fetch_eq_some.mpr (decode_fetchBytes_idl hb)
  have hu : exec .idl (s.advance 1) = .next ((s.incReg s.p).setHalted true) := by
    rw [s.advance_one, exec_idl]
  exact step_of_exec h hf hu

/-- Settles O37: the step's state is `step_idl`'s; its latch is set, so the halt check stops the step
after it. -/
theorem idleHalts : Obligations.IdleHalts := by
  refine ⟨encodes_of_f1 rfl, fun s => ?execute, fun s hh hb => ?step⟩
  case execute =>
    exact ⟨_, exec_idl s, setHalted_halted s true, changesOnly_setHalted s true⟩
  case step =>
    have hstep := step_idl hh hb
    obtain ⟨hcycles, hinstrs⟩ := step_counters hstep
    exact ⟨_, hstep, rfl, rfl, s.toNat_reg_incReg_same s.p, hcycles, hinstrs, step_halted rfl⟩

end Sys2Proof.Machine

/-! The host's operations and their errors (60_exceptions.md R251, R254, R261): which bytes a
program load leaves in memory, what the host can do to the halt latch, and when a register index is
refused. -/

namespace Sys2Proof.Machine

/-! ### Program load -/

/-- Storing a list of bytes leaves every address outside the list as it was. -/
theorem State.readByte_writeBytes_of_forall_ne (s : State) {cells : List (Addr × Byte)} {a : Addr}
    (h : ∀ cell ∈ cells, a ≠ cell.1) : (s.writeBytes cells).readByte a = s.readByte a := by
  induction cells generalizing s with
  | nil => rfl
  | cons cell cells ih =>
    obtain ⟨hcell, hcells⟩ := List.forall_mem_cons.mp h
    calc ((s.writeByte cell.1 cell.2).writeBytes cells).readByte a
        = (s.writeByte cell.1 cell.2).readByte a := ih _ hcells
      _ = s.readByte a := s.readByte_writeByte_of_ne hcell cell.2

/-- The first byte goes to the start address, and the rest are loaded from the next one on. -/
theorem programCells_cons (start : Nat) (b : Byte) (bytes : List Byte) :
    programCells start (b :: bytes) =
      (BitVec.ofNat 16 start, b) :: programCells (start + 1) bytes := by
  rw [programCells, List.zipIdx_cons']
  simp [programCells, Nat.add_assoc, Nat.add_comm 1]

/-- A load that fits does not wrap: the addresses it names lie in the program's own range. -/
theorem toNat_mem_programCells {start : Nat} {bytes : List Byte}
    (hfit : start + bytes.length ≤ memorySize) {cell : Addr × Byte}
    (h : cell ∈ programCells start bytes) :
    start ≤ cell.1.toNat ∧ cell.1.toNat < start + bytes.length := by
  obtain ⟨⟨b, k⟩, hk, rfl⟩ := List.mem_map.mp h
  have hlt : k < bytes.length := List.snd_lt_of_mem_zipIdx hk
  simp only [memorySize] at hfit
  simp only [BitVec.toNat_ofNat]
  omega

theorem readByte_load_outside (s : State) {start : Nat} {bytes : List Byte} {a : Addr}
    (hfit : start + bytes.length ≤ memorySize)
    (ha : a.toNat < start ∨ start + bytes.length ≤ a.toNat) :
    (s.writeBytes (programCells start bytes)).readByte a = s.readByte a := by
  refine s.readByte_writeBytes_of_forall_ne fun cell hcell heq => ?_
  obtain ⟨hlow, hhigh⟩ := toNat_mem_programCells hfit hcell
  rw [← heq] at hlow hhigh
  omega

/-- Each byte of the program is read back where it was loaded: the bytes after it go to higher
addresses, so none of them is stored over it. -/
theorem readByte_load_inside (s : State) {start k : Nat} {bytes : List Byte} {b : Byte}
    (hfit : start + bytes.length ≤ memorySize) (hk : bytes[k]? = some b) :
    (s.writeBytes (programCells start bytes)).readByte (BitVec.ofNat 16 (start + k)) = b := by
  induction bytes generalizing s start k with
  | nil => cases hk
  | cons c bytes ih =>
    rw [List.length_cons] at hfit
    have hrest : start + 1 + bytes.length ≤ memorySize := by omega
    rw [programCells_cons, State.writeBytes]
    cases k with
    | zero =>
      obtain rfl : c = b := by simpa using hk
      have hbelow : (BitVec.ofNat 16 (start + 0)).toNat < start + 1 := by
        simp only [BitVec.toNat_ofNat]; omega
      rw [readByte_load_outside _ hrest (.inl hbelow)]
      exact s.readByte_writeByte_same _ c
    | succ k =>
      rw [show start + (k + 1) = start + 1 + k by omega]
      exact ih _ hrest (by simpa using hk)

theorem loadProgram_of_overrun (s : State) {bytes : List Byte} {start : Nat}
    (h : memorySize < start + bytes.length) :
    s.loadProgram bytes start = .error .outOfBounds := if_pos h

theorem loadProgram_of_fit (s : State) {bytes : List Byte} {start : Nat}
    (h : start + bytes.length ≤ memorySize) :
    s.loadProgram bytes start = .ok (s.writeBytes (programCells start bytes)) :=
  if_neg (Nat.not_lt.mpr h)

/-- Settles O51: a load that fits is one run of byte stores, which reads back inside the program's
range, leaves memory outside it, and touches no other part of the state. -/
theorem loadProgramWritesExactlyItsBytes : Obligations.LoadProgramWritesExactlyItsBytes := by
  refine fun s bytes start => ⟨loadProgram_of_overrun s, fun hfit => ?_⟩
  refine ⟨_, loadProgram_of_fit s hfit, fun k b => readByte_load_inside s hfit,
    fun a => readByte_load_outside s hfit, ?memoryOnly⟩
  case memoryOnly => rw [s.writeBytes_eq]

/-! ### The halt latch under host operations -/

theorem hostSet_halted_one (s : State) : s.hostSet .halted 1 = .ok (s.setHalted true) := rfl

/-- The host does not clear the halt latch by setting another element, nor by setting it to 1. -/
theorem hostSet_keeps_halted {s t : State} {e : Element} {v : Nat} (hs : s.halted = true)
    (hev : e ≠ .halted ∨ v = 1) (h : s.hostSet e v = .ok t) : t.halted = true := by
  by_cases he : e = .halted
  · subst he
    obtain rfl := hev.resolve_left (fun hne => hne rfl)
    cases (hostSet_halted_one s).symm.trans h
    rfl
  · exact (hostSet_halted he h).trans hs

/-- Settles O6: the halt check comes first in a step, and the host leaves the latch set but for a
reset or a clear by name. -/
theorem stepOfHaltedFails : Obligations.StepOfHaltedFails := by
  intro s hs
  exact ⟨step_halted hs, fun _ _ _ h => (loadProgram_halted h).trans hs,
    fun _ _ _ => hostSet_keeps_halted hs, s.hostReset_halted,
    _, hostSet_halted_zero s, setHalted_halted s false⟩

/-! ### The register index check -/

/-- The check both register accessors make, whatever they answer with where it passes. -/
theorem checkedIndex_error_iff {α : Type} (i : Nat) (answer : α) :
    (if i < 16 then Except.ok answer else .error HostError.invalidRegister) =
      .error .invalidRegister ↔ 16 ≤ i := by
  split <;> next h => simpa using h

theorem hostRead_reg_error_iff (s : State) (i : Nat) :
    s.hostRead (.reg i) = .error .invalidRegister ↔ 16 ≤ i := checkedIndex_error_iff i _

theorem hostSet_reg_error_iff (s : State) (i v : Nat) :
    s.hostSet (.reg i) v = .error .invalidRegister ↔ 16 ≤ i := checkedIndex_error_iff i _

/-- Settles O52: both accessors check the index, and no instruction answers with an error of any
kind. -/
theorem hostRegisterIndexChecked : Obligations.HostRegisterIndexChecked :=
  ⟨fun s i v => ⟨hostRead_reg_error_iff s i, hostSet_reg_error_iff s i v⟩, exec_eq_next⟩

end Sys2Proof.Machine

/-! The decoder from the bytes to the instruction (30_encoding.md R72, R77, R80): each row of the opcode
table holds the bytes the encoder writes, so whatever decodes is an encoding, and a decode fails only
for want of bytes. -/

namespace Sys2Proof

/-! ### What the opcode table says of a byte is what the encoder writes -/

/-- Every instruction the format can be filled in to is well formed, and its encoding is the byte `b`
with the operand after it. -/
def Form.EncodedFrom (b : Byte) (f : Form) : Prop :=
  match f with
  | .f1 i => i.wf = true ∧ encode i = [b]
  | .f2 mk => ∀ imm, (mk imm).wf = true ∧ encode (mk imm) = [b, imm]
  | .f3 mk => ∀ addr, (mk addr).wf = true ∧ encode (mk addr) = withAddress b addr

/-- A byte of a row of the opcode map is the one at some column of it. -/
theorem exists_column {b : Byte} {row : Nat} (h : (highNibble b).toNat = row) :
    ∃ column < 16, b = BitVec.ofNat 8 (row * 16 + column) := by
  rw [toNat_highNibble] at h
  refine ⟨b.toNat % 16, by omega, BitVec.eq_of_toNat_eq ?_⟩
  rw [BitVec.toNat_ofNat]
  omega

theorem opcodeRow3_encodedFrom {b : Byte} (h : (highNibble b).toNat = 3) :
    (opcodeRow3 b).EncodedFrom b := by
  obtain ⟨column, hlt, rfl⟩ := exists_column h
  interval_cases column <;> simp [opcodeRow3, lowNibble, Form.EncodedFrom, Instr.wf, encode]

theorem opcodeRow6_encodedFrom {b : Byte} (h : (highNibble b).toNat = 6) :
    (opcodeRow6 b).EncodedFrom b := by
  obtain ⟨column, hlt, rfl⟩ := exists_column h
  interval_cases column <;> exact ⟨rfl, rfl⟩

theorem opcodeRow7_encodedFrom {b : Byte} (h : (highNibble b).toNat = 7) :
    (opcodeRow7 b).EncodedFrom b := by
  obtain ⟨column, hlt, rfl⟩ := exists_column h
  interval_cases column <;> simp [opcodeRow7, lowNibble, Form.EncodedFrom, Instr.wf, encode]

theorem opcodeRowC_encodedFrom {b : Byte} (h : (highNibble b).toNat = 12) :
    (opcodeRowC b).EncodedFrom b := by
  obtain ⟨column, hlt, rfl⟩ := exists_column h
  interval_cases column <;> simp [opcodeRowC, lowNibble, Form.EncodedFrom, Instr.wf, encode]

theorem opcodeRowF_encodedFrom {b : Byte} (h : (highNibble b).toNat = 15) :
    (opcodeRowF b).EncodedFrom b := by
  obtain ⟨column, hlt, rfl⟩ := exists_column h
  interval_cases column <;> simp [opcodeRowF, lowNibble, Form.EncodedFrom, Instr.wf, encode]

/-- A byte of the row `hi` is that row's first byte with its own low nibble as the register field. -/
theorem withField_lowNibble {b : Byte} {hi : Nibble} (h : (highNibble b).toNat = hi.toNat) :
    withField (joinNibbles hi 0) (lowNibble b) = b := by
  obtain ⟨hhi, hlo⟩ := withField_fields hi (lowNibble b)
  have hhi' := congrArg BitVec.toNat hhi
  have hlo' := congrArg BitVec.toNat hlo
  rw [← h, toNat_highNibble, toNat_highNibble] at hhi'
  rw [toNat_lowNibble, toNat_lowNibble] at hlo'
  exact BitVec.eq_of_toNat_eq (by omega)

/-- A register-field operation that holds its whole row is encoded in that row. -/
theorem encodedFrom_of_field {b : Byte} (hi : Nibble) {i : Instr}
    (h : (highNibble b).toNat = hi.toNat) (hwf : i.wf = true)
    (henc : encode i = [withField (joinNibbles hi 0) (lowNibble b)]) :
    (Form.f1 i).EncodedFrom b :=
  ⟨hwf, by rw [henc, withField_lowNibble h]⟩

/-- Row 0: byte 0x00 is IDL, and so LDN has a field other than 0 (30_encoding.md R82). -/
theorem opcodeRow0_encodedFrom {b : Byte} (h : (highNibble b).toNat = 0) :
    (if lowNibble b = 0 then Form.f1 .idl else .f1 (.ldn (lowNibble b))).EncodedFrom b := by
  have hb : withField 0x00 (lowNibble b) = b := withField_lowNibble (hi := 0) h
  split
  · next hz => exact ⟨rfl, by rw [← hb, hz]; rfl⟩
  · next hz => exact ⟨bne_iff_ne.mpr hz, congrArg (fun c => [c]) hb⟩

/-- The opcode table and the encoder agree on all 256 bytes (30_encoding.md R80, R81). -/
theorem opcodeForm_encodedFrom (b : Byte) : (opcodeForm b).EncodedFrom b := by
  unfold opcodeForm
  split
  case h_1 h => exact opcodeRow0_encodedFrom h
  case h_2 h => exact encodedFrom_of_field 1 h rfl rfl
  case h_3 h => exact encodedFrom_of_field 2 h rfl rfl
  case h_4 h => exact opcodeRow3_encodedFrom h
  case h_5 h => exact encodedFrom_of_field 4 h rfl rfl
  case h_6 h => exact encodedFrom_of_field 5 h rfl rfl
  case h_7 h => exact opcodeRow6_encodedFrom h
  case h_8 h => exact opcodeRow7_encodedFrom h
  case h_9 h => exact encodedFrom_of_field 8 h rfl rfl
  case h_10 h => exact encodedFrom_of_field 9 h rfl rfl
  case h_11 h => exact encodedFrom_of_field 10 h rfl rfl
  case h_12 h => exact encodedFrom_of_field 11 h rfl rfl
  case h_13 h => exact opcodeRowC_encodedFrom h
  case h_14 h => exact encodedFrom_of_field 13 h rfl rfl
  case h_15 h => exact encodedFrom_of_field 14 h rfl rfl
  case h_16 =>
    have hlt : (highNibble b).toNat < 16 := (highNibble b).isLt
    exact opcodeRowF_encodedFrom (by grind)

/-! ### What a decode can be -/

/-- What a successful decode can be: one case for each format of the opcode table. -/
theorem decode_cases {bytes rest : List Byte} {i : Instr} (h : decode bytes = .ok (i, rest)) :
    (∃ b, opcodeForm b = .f1 i ∧ bytes = b :: rest) ∨
      (∃ b mk imm, opcodeForm b = .f2 mk ∧ bytes = b :: imm :: rest ∧ i = mk imm) ∨
      ∃ b mk hi lo, opcodeForm b = .f3 mk ∧ bytes = b :: hi :: lo :: rest ∧
        i = mk (joinBytes hi lo) := by
  unfold decode at h
  split at h
  · cases h
  · next b tail =>
    split at h
    · next j hf => cases h; exact .inl ⟨b, hf, rfl⟩
    · next mk hf =>
      split at h
      · next imm tail => cases h; exact .inr (.inl ⟨b, mk, imm, hf, rfl, rfl⟩)
      · cases h
    · next mk hf =>
      split at h
      · next hi lo tail => cases h; exact .inr (.inr ⟨b, mk, hi, lo, hf, rfl, rfl⟩)
      · cases h
      · cases h

/-- The bytes consumed are the entry's own opcode byte and operand. -/
theorem wf_and_eq_of_decode {bytes rest : List Byte} {i : Instr}
    (h : decode bytes = .ok (i, rest)) : i.wf = true ∧ bytes = encode i ++ rest := by
  obtain ⟨b, hf, rfl⟩ | ⟨b, mk, imm, hf, rfl, rfl⟩ | ⟨b, mk, hi, lo, hf, rfl, rfl⟩ := decode_cases h
  all_goals
    have henc := opcodeForm_encodedFrom b
    rw [hf] at henc
  · obtain ⟨hwf, he⟩ := henc
    exact ⟨hwf, by rw [he]; rfl⟩
  · obtain ⟨hwf, he⟩ := henc imm
    exact ⟨hwf, by rw [he]; rfl⟩
  · obtain ⟨hwf, he⟩ := henc (joinBytes hi lo)
    refine ⟨hwf, ?_⟩
    rw [he, withAddress, Machine.highByte_joinBytes, Machine.lowByte_joinBytes]
    rfl

theorem length_encode (i : Instr) : (encode i).length = i.length := by
  cases i <;> rfl

/-- Settles O2: the bytes before the rest are those of one entry of the opcode table, and each entry
holds what the encoder writes (`opcodeForm_encodedFrom`). -/
theorem decodedBytesAreTheirEncoding : Obligations.DecodedBytesAreTheirEncoding := by
  intro bytes rest i h
  obtain ⟨hwf, hbytes⟩ := wf_and_eq_of_decode h
  exact ⟨hwf, hbytes, length_encode i⟩

/-! ### When a decode fails -/

theorem Form.length_le (f : Form) : f.length ≤ longestInstr := by
  cases f <;> simp [Form.length, longestInstr]

/-- A decode fails exactly for want of bytes (30_encoding.md R72, R77). -/
theorem decode_cons_error_iff (b : Byte) (rest : List Byte) :
    (∃ e, decode (b :: rest) = .error e) ↔ rest.length + 1 < (opcodeForm b).length := by
  cases hf : opcodeForm b with
  | f1 i => simp [decode, hf, Form.length]
  | f2 mk => cases rest <;> simp [decode, hf, Form.length]
  | f3 mk =>
    match rest with
    | [] | [_] | _ :: _ :: _ => simp [decode, hf, Form.length]

/-- Settles O3: a decode fails exactly on a slice shorter than the format, and no format is longer
than three bytes. -/
theorem decodeFailsExactlyOnShortSlices : Obligations.DecodeFailsExactlyOnShortSlices := by
  refine ⟨rfl, decode_cons_error_iff, fun b0 b1 b2 => ?_⟩
  cases h : decode [b0, b1, b2] with
  | ok r => exact ⟨r.1, r.2, rfl⟩
  | error e =>
    have hshort := (decode_cons_error_iff b0 [b1, b2]).mp ⟨e, h⟩
    exact absurd hshort (Nat.not_lt.mpr (opcodeForm b0).length_le)

/-! ### The words of the spec's examples -/

/-- Settles O5: the decoder is evaluated on each word. -/
theorem specExampleWordsDecode : Obligations.SpecExampleWordsDecode := by
  unfold Obligations.SpecExampleWordsDecode
  decide

end Sys2Proof

/-! What each instruction can change, said once for the whole instruction set (10_state.md section 1,
20_memory.md section 4): the frame of `exec`, and from it who writes which part of the state, who
writes memory and who emits. -/

namespace Sys2Proof.Machine

/-! ### The frames of the remaining single updates -/

/-- An update of one part leaves the rest of the state as it was. -/
theorem changesOnly_part (part : Part) {s t : State}
    (hrest : t = { s with d := t.d, df := t.df, p := t.p, x := t.x, ie := t.ie, q := t.q, t := t.t,
                          halted := t.halted, outs := t.outs })
    (hparts : ∀ other, other ≠ part → SamePart other s t) : ChangesOnly [part] [] [] s t where
  parts other h := hparts other (List.ne_of_not_mem_cons h)
  regs _ _ := by rw [hrest]; rfl
  memory _ _ := by rw [hrest]; rfl
  cycles := by rw [hrest]
  instrs := by rw [hrest]
  inputs := by rw [hrest]
  sample := by rw [hrest]
  epoch := by rw [hrest]

theorem changesOnly_setP (s : State) (n : Nibble) : ChangesOnly [.p] [] [] s (s.setP n) :=
  changesOnly_part .p rfl fun other h => by cases other <;> simp_all [SamePart]

theorem changesOnly_setX (s : State) (n : Nibble) : ChangesOnly [.x] [] [] s (s.setX n) :=
  changesOnly_part .x rfl fun other h => by cases other <;> simp_all [SamePart]

theorem changesOnly_setIe (s : State) (c : Bool) : ChangesOnly [.ie] [] [] s (s.setIe c) :=
  changesOnly_part .ie rfl fun other h => by cases other <;> simp_all [SamePart]

theorem changesOnly_setQ (s : State) (c : Bool) : ChangesOnly [.q] [] [] s (s.setQ c) :=
  changesOnly_part .q rfl fun other h => by cases other <;> simp_all [SamePart]

theorem changesOnly_setT (s : State) (b : Byte) : ChangesOnly [.t] [] [] s (s.setT b) :=
  changesOnly_part .t rfl fun other h => by cases other <;> simp_all [SamePart]

theorem changesOnly_emit (s : State) (port : Port) (b : Byte) :
    ChangesOnly [.outs] [] [] s (s.emit port b) :=
  changesOnly_part .outs rfl fun other h => by cases other <;> simp_all [SamePart]

/-- MARK: `T`, the byte at the old `R[2]`, `X`, then `R[2]` itself (47_control.md R224). -/
theorem changesOnly_mark (s : State) :
    ChangesOnly [.t, .x] [2] [s.reg 2] s
      ((((s.setT s.packXP).storeThrough markPointer s.packXP).setX s.p).decReg markPointer) :=
  (((changesOnly_setT s _).trans (changesOnly_writeByte _ _ _)).trans (changesOnly_setX _ _)).trans
    (changesOnly_setReg _ 2 _)

/-- RET and DIS: the index register, `X`, `P` and `IE` (47_control.md R225, R226). -/
theorem changesOnly_loadXP (s : State) (ie : Bool) :
    ChangesOnly [.x, .p, .ie] [s.x] [] s (s.loadXP ie) :=
  (((changesOnly_setReg s s.x _).trans (changesOnly_setX _ _)).trans (changesOnly_setP _ _)).trans
    (changesOnly_setIe _ ie)

theorem changesOnly_takeInput (s : State) : ChangesOnly [.d] [] [s.reg s.x] s s.takeInput :=
  (changesOnly_writeByte s _ _).trans (changesOnly_setD _ _)

theorem changesOnly_shortBranch (s : State) (taken : Bool) (imm : Byte) :
    ChangesOnly [] [s.p] [] s (s.shortBranch taken imm) :=
  (pcBecomes_shortBranch .rfl s imm).2

theorem changesOnly_longBranch (s : State) (taken : Bool) (addr : Addr) :
    ChangesOnly [] [s.p] [] s (s.longBranch taken addr) :=
  (pcBecomes_longBranch .rfl s addr).2

theorem changesOnly_longSkip (s : State) (skips : Bool) :
    ChangesOnly [] [s.p] [] s (s.longSkip skips) :=
  (pcBecomes_longSkip .rfl s).2

/-! ### The frame of every instruction -/

/-- The parts an instruction can change. -/
def changedParts (i : Instr) : List Part :=
  match i with
  | .idl => [.halted]
  | .ldn _ | .lda _ | .ldx | .ldxa | .ldi _ | .glo _ | .ghi _ | .inp _
  | .or | .ori _ | .xor | .xri _ | .and | .ani _ => [.d]
  | .add | .adi _ | .adc | .adci _ | .sd | .sdi _ | .sdb | .sdbi _ | .sm | .smi _ | .smb | .smbi _
  | .shr | .shrc | .shl | .shlc => [.d, .df]
  | .sep _ => [.p]
  | .sex _ => [.x]
  | .seq | .req => [.q]
  | .mark => [.t, .x]
  | .ret | .dis => [.x, .p, .ie]
  | .out _ => [.outs]
  | _ => []

/-- The registers an instruction can change, from the state it runs on. -/
def changedRegs (i : Instr) (s : State) : List Nibble :=
  match i with
  | .inc n | .dec n | .lda n | .plo n | .phi n => [n]
  | .irx | .ldxa | .stxd | .ret | .dis | .out _ => [s.x]
  | .mark => [2]
  | .br _ | .bq _ | .bz _ | .bdf _ | .b1 _ | .b2 _ | .b3 _ | .b4 _ | .skp | .bnq _ | .bnz _ | .bnf _
  | .bn1 _ | .bn2 _ | .bn3 _ | .bn4 _ | .lbr _ | .lbq _ | .lbz _ | .lbdf _ | .lbnq _ | .lbnz _
  | .lbnf _ | .nop | .lsnq | .lsnz | .lsnf | .lskp | .lsie | .lsq | .lsz | .lsdf => [s.p]
  | _ => []

/-- The addresses an instruction can store at, from the state it runs on (20_memory.md section 4). -/
def storedAddrs (i : Instr) (s : State) : List Addr :=
  match i with
  | .str n => [s.reg n]
  | .stxd | .sav | .inp _ => [s.reg s.x]
  | .mark => [s.reg 2]
  | _ => []

/-- Every instruction changes at most what the three lists name: each meaning is one of the updates
above, or two of them in a row. -/
theorem exec_changesOnly {i : Instr} {s t : State} (h : exec i s = .next t) :
    ChangesOnly (changedParts i) (changedRegs i s) (storedAddrs i s) s t := by
  cases i <;> cases h
  case idl => exact changesOnly_setHalted s true
  case ldn | ldx | ldi | glo | ghi | or | ori | xor | xri | and | ani =>
    exact changesOnly_setD s _
  case add | adi | adc | adci | sd | sdi | sdb | sdbi | sm | smi | smb | smbi | shr | shrc | shl
      | shlc =>
    exact changesOnly_setResult s _
  case lda | ldxa => exact (changesOnly_setD s _).trans (changesOnly_setReg _ _ _)
  case str | sav => exact changesOnly_writeByte s _ _
  case stxd => exact (changesOnly_writeByte s _ _).trans (changesOnly_setReg _ _ _)
  case inc | dec | irx | plo | phi | skp => exact changesOnly_setReg s _ _
  case sep => exact changesOnly_setP s _
  case sex => exact changesOnly_setX s _
  case seq | req => exact changesOnly_setQ s _
  case mark => exact changesOnly_mark s
  case ret | dis => exact changesOnly_loadXP s _
  case out => exact (changesOnly_emit s _ _).trans (changesOnly_setReg _ _ _)
  case inp => exact changesOnly_takeInput s
  case br | bq | bz | bdf | b1 | b2 | b3 | b4 | bnq | bnz | bnf | bn1 | bn2 | bn3 | bn4 =>
    exact changesOnly_shortBranch s _ _
  case lbr | lbq | lbz | lbdf | lbnq | lbnz | lbnf => exact changesOnly_longBranch s _ _
  case nop | lsnq | lsnz | lsnf | lskp | lsie | lsq | lsz | lsdf => exact changesOnly_longSkip s _

/-- A part that an execute phase changes is one its instruction can change. -/
theorem mem_changedParts {i : Instr} {s t : State} (h : exec i s = .next t) {part : Part}
    (hne : ¬ SamePart part s t) : part ∈ changedParts i :=
  not_imp_comm.mp ((exec_changesOnly h).parts part) hne

/-! ### Who writes what -/

/-- The operations that write a part (10_state.md section 1, summary table). -/
def partWriters (part : Part) : List String :=
  match part with
  | .d => ["LDN", "LDA", "LDX", "LDXA", "LDI", "GLO", "GHI", "INP", "ADD", "ADI", "ADC", "ADCI", "SD",
      "SDI", "SDB", "SDBI", "SM", "SMI", "SMB", "SMBI", "OR", "ORI", "XOR", "XRI", "AND", "ANI", "SHR",
      "SHRC", "SHL", "SHLC"]
  | .df => ["ADD", "ADI", "ADC", "ADCI", "SD", "SDI", "SDB", "SDBI", "SM", "SMI", "SMB", "SMBI", "SHR",
      "SHRC", "SHL", "SHLC"]
  | .p => ["SEP", "RET", "DIS"]
  | .x => ["SEX", "RET", "DIS", "MARK"]
  | .ie => ["RET", "DIS"]
  | .q => ["SEQ", "REQ"]
  | .t => ["MARK"]
  | .halted => ["IDL"]
  | .outs => ["OUT"]

theorem mnemonic_mem_partWriters (i : Instr) :
    ∀ part ∈ changedParts i, i.mnemonic ∈ partWriters part := by
  have h : (changedParts i).all fun part => (partWriters part).contains i.mnemonic := by
    cases i <;> rfl
  simpa using h

/-- An instruction that changes a part is one of the operations that write it. -/
theorem writer_of_changed {i : Instr} {s t : State} (h : exec i s = .next t) {part : Part}
    (hne : ¬ SamePart part s t) : i.mnemonic ∈ partWriters part :=
  mnemonic_mem_partWriters i part (mem_changedParts h hne)

/-- Settles O16: the writers of `P` and of `X`. -/
theorem selectorWriters : Obligations.SelectorWriters := fun _ _ _ h =>
  ⟨writer_of_changed (part := .p) h, writer_of_changed (part := .x) h⟩

/-- Settles O17: the writers of `DF`, `Q`, `IE`, `T` and `D`. -/
theorem flagAndSavedPairWriters : Obligations.FlagAndSavedPairWriters := fun _ _ _ h =>
  ⟨writer_of_changed (part := .df) h, writer_of_changed (part := .q) h,
    writer_of_changed (part := .ie) h,
    fun ht => List.mem_singleton.mp (writer_of_changed (part := .t) h ht),
    writer_of_changed (part := .d) h⟩

/-- Settles O18: an address that reads differently is one the instruction can store at. -/
theorem onlyStoresWriteMemory : Obligations.OnlyStoresWriteMemory := by
  intro i s t a h hne
  have hmem : a ∈ storedAddrs i s := not_imp_comm.mp ((exec_changesOnly h).memory a) hne
  cases i
  case str n => exact .inl ⟨n, rfl, List.mem_singleton.mp hmem⟩
  case stxd | sav | inp =>
    exact .inr (.inl ⟨by simp [Instr.mnemonic], List.mem_singleton.mp hmem⟩)
  case mark => exact .inr (.inr ⟨rfl, List.mem_singleton.mp hmem⟩)
  all_goals exact absurd hmem List.not_mem_nil

end Sys2Proof.Machine

/-! Fetching and running the instruction at `pc` (40_step_cycle.md R102 to R105, 20_memory.md R56):
which bytes a fetch reads, when it gives nothing, and so when a step faults; and the step at an opcode
byte that is known. -/

namespace Sys2Proof.Machine

/-! ### The bytes a fetch reads -/

/-- A fetch reads at `pc` and after, as many bytes as there are, up to three. -/
theorem State.length_fetchBytes (s : State) :
    s.fetchBytes.length = min longestInstr (memorySize - s.pc.toNat) := by
  simp [State.fetchBytes, fetchAddrs]

theorem fetchAddrs_of_le {a : Addr} (h : a.toNat ≤ 0xFFFD) : fetchAddrs a = [a, a + 1, a + 2] := by
  have hcount : min longestInstr (memorySize - a.toNat) = 3 := by
    simp only [longestInstr, memorySize]; omega
  simp [fetchAddrs, hcount, List.range_succ]

/-- Settles O8: the fetch addresses, three of them or as many as lie below the top of memory. -/
theorem fetchReadsBytesAtPc : Obligations.FetchReadsBytesAtPc := by
  intro s
  refine ⟨fun h => ?three, fun h => ?two, fun h => ?one⟩
  case three => rw [State.fetchBytes, fetchAddrs_of_le h]; rfl
  case two =>
    have hpc : s.pc = 0xFFFE := BitVec.eq_of_toNat_eq h
    rw [State.fetchBytes, hpc]; rfl
  case one =>
    have hpc : s.pc = 0xFFFF := BitVec.eq_of_toNat_eq h
    rw [State.fetchBytes, hpc]; rfl

/-- Below 0xFFFF a fetch reads the byte after the opcode too. -/
theorem State.exists_fetchBytes_eq_cons_cons {s : State} (h : s.pc.toNat < 0xFFFF) :
    ∃ rest, s.fetchBytes = s.readByte s.pc :: s.readByte (s.pc + 1) :: rest := by
  obtain ⟨hthree, htwo, -⟩ := fetchReadsBytesAtPc s
  by_cases hle : s.pc.toNat ≤ 0xFFFD
  · exact ⟨_, hthree hle⟩
  · have hpc : s.pc = 0xFFFE := BitVec.eq_of_toNat_eq (y := 0xFFFE) (by simp; omega)
    rw [hpc]
    exact ⟨_, htwo (congrArg BitVec.toNat hpc)⟩

/-! ### When a fetch gives nothing -/

theorem fetch_eq_none {s : State} : s.fetch = none ↔ ∃ e, decode s.fetchBytes = .error e := by
  unfold State.fetch
  cases decode s.fetchBytes <;> simp

/-- A fetch gives nothing exactly when the instruction does not fit below the top of memory. -/
theorem fetch_eq_none_iff (s : State) : s.fetch = none ↔ ¬ s.instrFits := by
  obtain ⟨rest, hrest⟩ := s.exists_fetchBytes_eq_cons
  have hlength := s.length_fetchBytes
  have hlongest := (opcodeForm (s.readByte s.pc)).length_le
  rw [hrest, List.length_cons] at hlength
  rw [fetch_eq_none, hrest, decode_cons_error_iff, hlength, State.instrFits]
  have hpc : s.pc.toNat < memorySize := s.pc.isLt
  omega

/-! ### When a step faults -/

/-- A step whose fetch gives an instruction goes through. -/
theorem exists_step_of_fetch {s : State} {i : Instr} (h : s.halted = false)
    (hf : s.fetch = some i) :
    ∃ u, exec i (s.advance i.length) = .next u ∧ step s = .next u.finishStep := by
  obtain ⟨rest, hd⟩ := fetch_eq_some.mp hf
  exact exists_step_of_decode h hd

theorem exists_step_of_instrFits {s : State} (h : s.halted = false) (hfits : s.instrFits) :
    ∃ t, step s = .next t := by
  obtain ⟨i, hf⟩ := Option.ne_none_iff_exists'.mp fun hn => (fetch_eq_none_iff s).mp hn hfits
  obtain ⟨u, -, hstep⟩ := exists_step_of_fetch h hf
  exact ⟨_, hstep⟩

theorem step_of_not_instrFits {s : State} (h : s.halted = false) (hfits : ¬ s.instrFits) :
    step s = .fault (.decodeFault s.pc) :=
  step_no_fetch h ((fetch_eq_none_iff s).mpr hfits)

/-- Settles O7: the step `exists_step_of_decode` gives, with the advance and the count written out. -/
theorem stepRunsDecodedInstruction : Obligations.StepRunsDecodedInstruction := by
  intro s i rest h hd
  obtain ⟨u, hu, hstep⟩ := exists_step_of_decode h hd
  rw [s.advance_eq] at hu
  rw [hstep, hu]
  rfl

/-- Settles O10: an instruction that fits executes, so the one fault left is the fetch's. -/
theorem stepFaultsExactlyAtTop : Obligations.StepFaultsExactlyAtTop := by
  intro s f h
  rw [show 0x10000 < s.pc.toNat + _ ↔ ¬ s.instrFits from Nat.not_le.symm]
  by_cases hfits : s.instrFits
  · obtain ⟨t, ht⟩ := exists_step_of_instrFits h hfits
    simp [ht, hfits]
  · simp [step_of_not_instrFits h hfits, hfits, eq_comm]

/-- Settles O11: the halted state, the instruction that fits and the one that does not. -/
theorem safeStepExactly : Obligations.SafeStepExactly := by
  intro s
  cases h : s.halted with
  | true => exact iff_of_true (.inr (step_halted h)) (.inl rfl)
  | false =>
    by_cases hfits : s.instrFits
    · exact iff_of_true (.inl (exists_step_of_instrFits h hfits)) (.inr hfits)
    · simp [SafeStep, step_of_not_instrFits h hfits, hfits]

/-! ### The step at a known opcode byte -/

theorem fetch_of_f1 {s : State} {i : Instr} (hb : opcodeForm (s.readByte s.pc) = .f1 i) :
    s.fetch = some i := by
  obtain ⟨rest, hrest⟩ := s.exists_fetchBytes_eq_cons
  exact fetch_eq_some.mpr ⟨rest, by rw [hrest]; exact encodes_of_f1 hb rest⟩

theorem fetch_of_f2 {s : State} {mk : Byte → Instr} (hb : opcodeForm (s.readByte s.pc) = .f2 mk)
    (hpc : s.pc.toNat < 0xFFFF) : s.fetch = some (mk (s.readByte (s.pc + 1))) := by
  obtain ⟨rest, hrest⟩ := State.exists_fetchBytes_eq_cons_cons hpc
  exact fetch_eq_some.mpr ⟨rest, by rw [hrest]; exact encodes_of_f2 hb _ rest⟩

/-- The step of a one-byte instruction runs it after `R[P]` is incremented. -/
theorem step_of_f1 {s u : State} {i : Instr} (h : s.halted = false)
    (hb : opcodeForm (s.readByte s.pc) = .f1 i) (hu : exec i (s.incReg s.p) = .next u) :
    step s = .next u.finishStep := by
  have hlength : i.length = 1 := by
    have hagree := opcodeForm_lengthsAgree (s.readByte s.pc)
    rwa [hb] at hagree
  exact step_of_exec h (fetch_of_f1 hb) (by rw [hlength, s.advance_one, hu])

/-- The step of a two-byte instruction runs it, with the byte after the opcode, two bytes on. -/
theorem step_of_f2 {s u : State} {mk : Byte → Instr} (h : s.halted = false)
    (hb : opcodeForm (s.readByte s.pc) = .f2 mk) (hpc : s.pc.toNat < 0xFFFF)
    (hu : exec (mk (s.readByte (s.pc + 1))) (s.advance 2) = .next u) :
    step s = .next u.finishStep := by
  have hlength : (mk (s.readByte (s.pc + 1))).length = 2 := by
    have hagree := opcodeForm_lengthsAgree (s.readByte s.pc)
    rw [hb] at hagree
    exact hagree _
  exact step_of_exec h (fetch_of_f2 hb hpc) (by rw [hlength, hu])

/-! ### The first fetch after a reset -/

/-- Settles O14: `P` and `X` are 0 in the reset state, and so is every register. -/
theorem resetEntryAndClearFlags : Obligations.ResetEntryAndClearFlags := by
  intro s t h
  obtain ⟨epoch, sample, inputs, outs, rfl⟩ := State.exists_eq_afterReset h
  exact ⟨rfl, State.reg_afterReset _ _ _ _ 0, rfl, rfl, rfl, rfl⟩

end Sys2Proof.Machine

/-! The invariant of a run (10_state.md section 5, 20_memory.md section 1, 48_io.md R243): what a step
and the host's operations do to the canonical form of memory, to the counters and to the events. -/

namespace Sys2Proof.Machine

/-! ### The canonical form of memory -/

@[simp] theorem State.shortBranch_mem (s : State) (taken : Bool) (imm : Byte) :
    (s.shortBranch taken imm).mem = s.mem := by
  obtain ⟨-, h⟩ | ⟨-, h⟩ := s.shortBranch_cases taken imm <;> simp [h]

@[simp] theorem State.longBranch_mem (s : State) (taken : Bool) (addr : Addr) :
    (s.longBranch taken addr).mem = s.mem := by
  obtain ⟨-, h⟩ | ⟨-, h⟩ := s.longBranch_cases taken addr <;> simp [h]

@[simp] theorem State.longSkip_mem (s : State) (skips : Bool) : (s.longSkip skips).mem = s.mem := by
  obtain ⟨-, h⟩ | ⟨-, h⟩ := s.longSkip_cases skips <;> simp [h]

/-- The five operations that store write one byte each; no other meaning writes memory. -/
theorem exec_keeps_wf {i : Instr} {s t : State} (h : exec i s = .next t) (hs : s.mem.wf = true) :
    t.mem.wf = true := by
  cases i <;> cases h
  case str | stxd | sav | mark | inp => exact s.wf_writeByte _ _ hs
  case br | bq | bz | bdf | b1 | b2 | b3 | b4 | bnq | bnz | bnf | bn1 | bn2 | bn3 | bn4 =>
    rwa [s.shortBranch_mem]
  case lbr | lbq | lbz | lbdf | lbnq | lbnz | lbnf => rwa [s.longBranch_mem]
  case nop | lsnq | lsnz | lsnf | lskp | lsie | lsq | lsz | lsdf => rwa [s.longSkip_mem]
  all_goals exact hs

theorem step_keeps_wf {s t : State} (h : step s = .next t) (hs : s.mem.wf = true) :
    t.mem.wf = true := by
  obtain ⟨-, i, u, -, hu, rfl⟩ := step_next h
  have hwf : u.mem.wf = true := exec_keeps_wf hu hs
  exact hwf

theorem hostSet_keeps_wf {s t : State} {e : Element} {v : Nat} (h : s.hostSet e v = .ok t)
    (hs : s.mem.wf = true) : t.mem.wf = true := by
  cases e <;> simp only [State.hostSet] at h
  case reg => split at h <;> cases h; exact hs
  case mem a => cases h; exact s.wf_writeByte a _ hs
  all_goals cases h; exact hs

/-- Settles O57: a load and a placed word are byte stores, a force-set is at most one, and a reset
lists nothing. -/
theorem hostKeepsMemoryCanonical : Obligations.HostKeepsMemoryCanonical := by
  intro s hs
  refine ⟨fun bytes start t h => ?load, fun _ _ _ h => hostSet_keeps_wf h hs, Memory.wf_nil,
    fun nbits w => wf_withFetchWord s nbits w hs⟩
  case load =>
    obtain ⟨-, rfl⟩ := loadProgram_ok h
    exact s.wf_writeBytes _ hs

/-! ### The events -/

theorem exec_out (port : Port) (s : State) :
    exec (.out port) s = .next ((s.emit port (s.readByte (s.reg s.x))).incReg s.x) := rfl

theorem exists_eq_out_of_mem {i : Instr} (h : Part.outs ∈ changedParts i) :
    ∃ port, i = .out port := by
  have hcontains : (changedParts i).contains .outs = true := List.contains_iff_mem.mpr h
  cases i
  case out port => exact ⟨port, rfl⟩
  all_goals exact absurd hcontains Bool.false_ne_true

/-- OUT alone emits, and it emits one event. -/
theorem exec_outs {i : Instr} {s t : State} (h : exec i s = .next t) :
    t.outs = s.outs ∨
      ∃ port, i = .out port ∧ t.outs = s.outs ++ [⟨port, s.readByte (s.reg s.x)⟩] := by
  by_cases hmem : Part.outs ∈ changedParts i
  · obtain ⟨port, rfl⟩ := exists_eq_out_of_mem hmem
    cases h
    exact .inr ⟨port, rfl, rfl⟩
  · exact .inl ((exec_changesOnly h).parts .outs hmem)

/-- Settles O43: the step emits what its execute phase does, and an OUT is one byte long. -/
theorem onlyOutEmits : Obligations.OnlyOutEmits := by
  intro s t h
  obtain ⟨-, i, u, hf, hu, rfl⟩ := step_next h
  obtain houts | ⟨port, rfl, houts⟩ := exec_outs hu
  · exact .inl houts
  · exact .inr ⟨port, s.advance 1, hf, rfl, houts⟩

/-- A fetched OUT has a port other than 0: the decoder gives well-formed instructions only. -/
theorem port_ne_zero_of_fetch {s : State} {port : Port} (h : s.fetch = some (.out port)) :
    port ≠ 0 := by
  obtain ⟨rest, hd⟩ := fetch_eq_some.mp h
  exact bne_iff_ne.mp (wf_and_eq_of_decode hd).1

theorem step_keeps_ports {s t : State} (h : step s = .next t) (hs : ∀ e ∈ s.outs, e.port ≠ 0) :
    ∀ e ∈ t.outs, e.port ≠ 0 := by
  obtain houts | ⟨port, u, hf, -, houts⟩ := onlyOutEmits s t h
  · rwa [houts]
  · rw [houts, List.forall_mem_append]
    exact ⟨hs, List.forall_mem_singleton.mpr (port_ne_zero_of_fetch hf)⟩

/-! ### The invariant -/

/-- Settles O55: memory through its stores, the counters by the one count of a step, and the ports
because no byte decodes to OUT with port 0. -/
theorem stepKeepsInvariant : Obligations.StepKeepsInvariant := by
  intro s t hs h
  obtain ⟨hcycles, hinstrs⟩ := step_counters h
  exact ⟨step_keeps_wf h hs.memory, by rw [hcycles, hinstrs, hs.counters],
    step_keeps_ports h hs.ports⟩

/-- After any reset, what the invariant asks is what it asks of the events already emitted. -/
theorem State.inv_afterReset (epoch sample : Nat) (inputs : List Input) {outs : List OutEvent}
    (h : ∀ e ∈ outs, e.port ≠ 0) : (State.afterReset epoch sample inputs outs).Inv :=
  ⟨Memory.wf_nil, rfl, h⟩

/-- Settles O56: power-on has emitted nothing, and a host reset keeps the events. -/
theorem resetMeetsInvariant : Obligations.ResetMeetsInvariant :=
  ⟨State.inv_afterReset _ _ _ (List.forall_mem_nil _), fun _ h => State.inv_afterReset _ _ _ h.ports⟩

end Sys2Proof.Machine

/-! The remaining instruction families (41_memory_reference.md, 42_register_ops.md, 43_arithmetic.md,
45_short_branch.md, 46_long_branch_skip.md, 47_control.md, 48_io.md): each meaning written out once as
the updates it makes, from which effect and frame are read off. -/

namespace Sys2Proof.Machine

/-! ### Loads and the store through X -/

theorem exec_ldx (s : State) : exec .ldx s = .next (s.setD (s.readByte (s.reg s.x))) := rfl

theorem exec_ldxa (s : State) :
    exec .ldxa s = .next ((s.setD (s.readByte (s.reg s.x))).incReg s.x) := rfl

theorem exec_stxd (s : State) :
    exec .stxd s = .next ((s.writeByte (s.reg s.x) s.d).decReg s.x) := rfl

/-- Settles O20: LDX and LDXA as LDN and LDA with the index register; STXD stores first and then
writes that register, which moves no byte. -/
theorem loadAndStoreThroughX : Obligations.LoadAndStoreThroughX := by
  intro s
  refine ⟨encodes_of_f1 rfl, encodes_of_f1 rfl, encodes_of_f1 rfl, ?ldx, ?ldxa, ?stxd⟩
  case ldx => exact ⟨_, exec_ldx s, setD_d s _, exec_changesOnly (exec_ldx s)⟩
  case ldxa =>
    exact ⟨_, exec_ldxa s, setD_d s _, State.toNat_reg_incReg_same _ s.x,
      exec_changesOnly (exec_ldxa s)⟩
  case stxd =>
    exact ⟨_, exec_stxd s, s.readByte_writeByte_same _ _, State.toNat_reg_decReg_same _ s.x,
      exec_changesOnly (exec_stxd s)⟩

/-! ### Register operations -/

theorem exec_irx (s : State) : exec .irx s = .next (s.incReg s.x) := rfl

theorem exec_glo (n : Nibble) (s : State) :
    exec (.glo n) s = .next (s.setD (lowByte (s.reg n))) := rfl

theorem exec_ghi (n : Nibble) (s : State) :
    exec (.ghi n) s = .next (s.setD (highByte (s.reg n))) := rfl

theorem exec_plo (n : Nibble) (s : State) :
    exec (.plo n) s = .next (s.setReg n (joinBytes (highByte (s.reg n)) s.d)) := rfl

theorem exec_sep (n : Nibble) (s : State) : exec (.sep n) s = .next (s.setP n) := rfl

theorem exec_sex (n : Nibble) (s : State) : exec (.sex n) s = .next (s.setX n) := rfl

/-- Settles O23: each of the six is one update, and splitting and joining bytes is known by value. -/
theorem byteMovesAndSelectors : Obligations.ByteMovesAndSelectors := by
  intro s n
  refine ⟨encodes_of_f1 rfl, encodes_of_f1 (opcodeForm_glo n), encodes_of_f1 (opcodeForm_ghi n),
    encodes_of_f1 (opcodeForm_plo n), encodes_of_f1 (opcodeForm_sep n),
    encodes_of_f1 (opcodeForm_sex n), ?irx, ?glo, ?ghi, ?plo, ?sep, ?sex⟩
  case irx => exact ⟨_, exec_irx s, s.toNat_reg_incReg_same s.x, changesOnly_setReg s _ _⟩
  case glo => exact ⟨_, exec_glo n s, toNat_lowByte _, changesOnly_setD s _⟩
  case ghi => exact ⟨_, exec_ghi n s, toNat_highByte _, changesOnly_setD s _⟩
  case plo =>
    refine ⟨_, exec_plo n s, ?_, changesOnly_setReg s n _⟩
    rw [State.reg_setReg_same, toNat_joinBytes, toNat_highByte]
  case sep => exact ⟨_, exec_sep n s, setP_p s n, changesOnly_setP s n⟩
  case sex => exact ⟨_, exec_sex n s, setX_x s n, changesOnly_setX s n⟩

/-! ### Subtraction with borrow -/

theorem exec_sdb (s : State) :
    exec .sdb s = .next (s.setResult (subBytes (s.readByte (s.reg s.x)) s.d !s.df)) := rfl

theorem exec_sdbi (imm : Byte) (s : State) :
    exec (.sdbi imm) s = .next (s.setResult (subBytes imm s.d !s.df)) := rfl

theorem exec_smb (s : State) :
    exec .smb s = .next (s.setResult (subBytes s.d (s.readByte (s.reg s.x)) !s.df)) := rfl

theorem exec_smbi (imm : Byte) (s : State) :
    exec (.smbi imm) s = .next (s.setResult (subBytes s.d imm !s.df)) := rfl

/-- Settles O27: each of the four writes the difference of two bytes with the inverted `DF` as the
borrow. -/
theorem subtractWithBorrowLaws : Obligations.SubtractWithBorrowLaws := by
  rintro s imm _ rfl
  have hdiff (a b : Byte) :
      DifferenceInD a b (1 - s.df.toNat) s (s.setResult (subBytes a b !s.df)) := by
    have hborrow : (!s.df).toNat = 1 - s.df.toNat := by cases s.df <;> rfl
    exact hborrow ▸ differenceInD_setResult_subBytes s a b _
  refine ⟨encodes_of_f1 rfl, encodes_of_f2 rfl imm, encodes_of_f1 rfl, encodes_of_f2 rfl imm,
    ?sdb, ?sdbi, ?smb, ?smbi⟩
  case sdb => exact ⟨_, exec_sdb s, hdiff _ s.d⟩
  case sdbi => exact ⟨_, exec_sdbi imm s, hdiff imm s.d⟩
  case smb => exact ⟨_, exec_smb s, hdiff s.d _⟩
  case smbi => exact ⟨_, exec_smbi imm s, hdiff s.d imm⟩

/-! ### Short branches on the external flags -/

/-- The input record of a step is the first one already fixed, if there is one (log 1). -/
theorem State.input_of_inputs {s : State} {r : Input} {rest : List Input}
    (h : s.inputs = r :: rest) : s.input = r := by
  rw [State.input, h]

theorem State.ef_of_inputs {s : State} {r : Input} {rest : List Input} (h : s.inputs = r :: rest) :
    s.ef .ef1 = r.ef1 ∧ s.ef .ef2 = r.ef2 ∧ s.ef .ef3 = r.ef3 ∧ s.ef .ef4 = r.ef4 := by
  simp [State.ef, State.input_of_inputs h]

theorem exec_b1 (imm : Byte) (s : State) :
    exec (.b1 imm) s = .next (s.shortBranch (s.ef .ef1) imm) := rfl

theorem exec_b2 (imm : Byte) (s : State) :
    exec (.b2 imm) s = .next (s.shortBranch (s.ef .ef2) imm) := rfl

theorem exec_b3 (imm : Byte) (s : State) :
    exec (.b3 imm) s = .next (s.shortBranch (s.ef .ef3) imm) := rfl

theorem exec_b4 (imm : Byte) (s : State) :
    exec (.b4 imm) s = .next (s.shortBranch (s.ef .ef4) imm) := rfl

theorem exec_bn1 (imm : Byte) (s : State) :
    exec (.bn1 imm) s = .next (s.shortBranch (!s.ef .ef1) imm) := rfl

theorem exec_bn2 (imm : Byte) (s : State) :
    exec (.bn2 imm) s = .next (s.shortBranch (!s.ef .ef2) imm) := rfl

theorem exec_bn3 (imm : Byte) (s : State) :
    exec (.bn3 imm) s = .next (s.shortBranch (!s.ef .ef3) imm) := rfl

theorem exec_bn4 (imm : Byte) (s : State) :
    exec (.bn4 imm) s = .next (s.shortBranch (!s.ef .ef4) imm) := rfl

/-- Settles O31: each of the eight is a short branch on a flag of the step's input record, or on its
inverse. -/
theorem shortBranchesOnInputs : Obligations.ShortBranchesOnInputs := by
  intro s imm
  have hset (line : EfLine) := pcBecomes_shortBranch (c := s.ef line = true) .rfl s imm
  have hclear (line : EfLine) := pcBecomes_shortBranch (Bool.not_eq_true' (s.ef line)).to_iff s imm
  refine ⟨encodes_of_f2 rfl imm, encodes_of_f2 rfl imm, encodes_of_f2 rfl imm,
    encodes_of_f2 rfl imm, encodes_of_f2 rfl imm, encodes_of_f2 rfl imm, encodes_of_f2 rfl imm,
    encodes_of_f2 rfl imm, fun _ _ => State.ef_of_inputs, ?b1, ?b2, ?b3, ?b4, ?bn1, ?bn2, ?bn3, ?bn4⟩
  case b1 => exact ⟨_, exec_b1 imm s, hset .ef1⟩
  case b2 => exact ⟨_, exec_b2 imm s, hset .ef2⟩
  case b3 => exact ⟨_, exec_b3 imm s, hset .ef3⟩
  case b4 => exact ⟨_, exec_b4 imm s, hset .ef4⟩
  case bn1 => exact ⟨_, exec_bn1 imm s, hclear .ef1⟩
  case bn2 => exact ⟨_, exec_bn2 imm s, hclear .ef2⟩
  case bn3 => exact ⟨_, exec_bn3 imm s, hclear .ef3⟩
  case bn4 => exact ⟨_, exec_bn4 imm s, hclear .ef4⟩

/-! ### Unconditional transfers, LSIE, and the pairs of branch and skip -/

theorem exec_lbr (addr : Addr) (s : State) :
    exec (.lbr addr) s = .next (s.longBranch true addr) := rfl

theorem exec_nop (s : State) : exec .nop s = .next (s.longSkip false) := rfl

theorem exec_skp (s : State) : exec .skp s = .next (s.incReg s.p) := rfl

theorem exec_lskp (s : State) : exec .lskp s = .next (s.longSkip true) := rfl

theorem exec_lsie (s : State) : exec .lsie s = .next (s.longSkip s.ie) := rfl

/-- Settles O35: LBR and LSKP are the transfers that always take place, NOP the one that never does,
and LSIE the one on `IE`; SKP increments the program counter. -/
theorem unconditionalTransfersAndLsie : Obligations.UnconditionalTransfersAndLsie := by
  intro s hi lo addr haddr
  obtain rfl := eq_joinBytes_of_toNat haddr
  refine ⟨encodes_of_f3 rfl hi lo, encodes_of_f1 rfl, encodes_of_f1 rfl, encodes_of_f1 rfl,
    encodes_of_f1 rfl, ?lbr, exec_nop s, ?skp, ?lskp, ?lsie⟩
  case lbr => exact ⟨_, exec_lbr _ s, pcBecomes_setReg_p s _⟩
  case skp => exact ⟨_, exec_skp s, s.toNat_reg_incReg_same s.p, changesOnly_setReg s s.p _⟩
  case lskp => exact ⟨_, exec_lskp s, pcBecomes_longSkip (iff_of_true rfl trivial) s⟩
  case lsie => exact ⟨_, exec_lsie s, pcBecomes_longSkip .rfl s⟩

/-- A branch and a skip on opposite conditions: one of them moves `pc` and the other does nothing. -/
theorem longBranch_longSkip_complement (s : State) (addr : Addr) {taken skips : Bool}
    (h : skips = !taken) :
    (s.longBranch taken addr = s.setReg s.p addr ∧ s.longSkip skips = s) ∨
      (s.longBranch taken addr = s ∧ s.longSkip skips = s.setReg s.p (s.pc + 2)) := by
  subst h
  cases taken
  · exact .inr ⟨rfl, rfl⟩
  · exact .inl ⟨rfl, rfl⟩

/-- Settles O36: in each pair the skip is on the inverse of the branch's condition (D15). -/
theorem longSkipComplementsLongBranch : Obligations.LongSkipComplementsLongBranch := by
  intro s addr branch skip hpair
  have hcomplement {taken skips : Bool} (h : skips = !taken) :=
    longBranch_longSkip_complement s addr h
  simp only [List.mem_cons, List.not_mem_nil, or_false, Prod.mk.injEq] at hpair
  obtain ⟨rfl, rfl⟩ | ⟨rfl, rfl⟩ | ⟨rfl, rfl⟩ | ⟨rfl, rfl⟩ | ⟨rfl, rfl⟩ | ⟨rfl, rfl⟩ | ⟨rfl, rfl⟩ :=
    hpair
  · exact ⟨_, _, exec_lbr addr s, exec_nop s, hcomplement rfl⟩
  · exact ⟨_, _, exec_lbq addr s, exec_lsnq s, hcomplement rfl⟩
  · exact ⟨_, _, exec_lbz addr s, exec_lsnz s, hcomplement rfl⟩
  · exact ⟨_, _, exec_lbdf addr s, exec_lsnf s, hcomplement rfl⟩
  · exact ⟨_, _, exec_lbnq addr s, exec_lsq s, hcomplement (Bool.not_not s.q).symm⟩
  · exact ⟨_, _, exec_lbnz addr s, exec_lsz s, hcomplement (Bool.not_not s.dIsZero).symm⟩
  · exact ⟨_, _, exec_lbnf addr s, exec_lsdf s, hcomplement (Bool.not_not s.df).symm⟩

/-! ### Control -/

theorem exec_seq (s : State) : exec .seq s = .next (s.setQ true) := rfl

theorem exec_req (s : State) : exec .req s = .next (s.setQ false) := rfl

theorem exec_sav (s : State) : exec .sav s = .next (s.writeByte (s.reg s.x) s.t) := rfl

theorem exec_mark (s : State) :
    exec .mark s =
      .next ((((s.setT s.packXP).writeByte (s.reg 2) s.packXP).setX s.p).decReg 2) := rfl

theorem exec_ret (s : State) : exec .ret s = .next (s.loadXP true) := rfl

theorem exec_dis (s : State) : exec .dis s = .next (s.loadXP false) := rfl

/-- Settles O38: each of the two is one update of `Q`. -/
theorem setAndResetQ : Obligations.SetAndResetQ := by
  intro s
  refine ⟨encodes_of_f1 rfl, encodes_of_f1 rfl, ?seq, ?req⟩
  case seq => exact ⟨_, exec_seq s, setQ_q s true, changesOnly_setQ s true⟩
  case req => exact ⟨_, exec_req s, setQ_q s false, changesOnly_setQ s false⟩

/-- Settles O39: SAV is one store; MARK stores at the old `R[2]` what it leaves in `T`, and the
decrement after it moves no byte. -/
theorem saveAndMark : Obligations.SaveAndMark := by
  intro s
  refine ⟨encodes_of_f1 rfl, encodes_of_f1 rfl, ?sav, ?mark⟩
  case sav => exact ⟨_, exec_sav s, s.readByte_writeByte_same _ _, changesOnly_writeByte s _ _⟩
  case mark =>
    exact ⟨_, exec_mark s, toNat_joinNibbles s.x s.p,
      (s.setT s.packXP).readByte_writeByte_same _ _, rfl, State.toNat_reg_decReg_same _ 2,
      exec_changesOnly (exec_mark s)⟩

/-- What RET and DIS leave, by value. -/
theorem State.loadXP_spec (s : State) (ie : Bool) :
    (s.loadXP ie).x.toNat = (s.readByte (s.reg s.x)).toNat / 16 ∧
      (s.loadXP ie).p.toNat = (s.readByte (s.reg s.x)).toNat % 16 ∧
      ((s.loadXP ie).reg s.x).toNat = ((s.reg s.x).toNat + 1) % 65536 ∧ (s.loadXP ie).ie = ie ∧
      ChangesOnly [.x, .p, .ie] [s.x] [] s (s.loadXP ie) :=
  ⟨toNat_highNibble _, toNat_lowNibble _, s.toNat_reg_incReg_same s.x, rfl, changesOnly_loadXP s ie⟩

/-- Settles O40: RET and DIS share everything but the value of `IE`. -/
theorem returnAndDisable : Obligations.ReturnAndDisable := by
  rintro s _ rfl
  exact ⟨encodes_of_f1 rfl, encodes_of_f1 rfl, ⟨_, exec_ret s, s.loadXP_spec true⟩,
    _, exec_dis s, s.loadXP_spec false⟩

/-- Settles O41: INC takes back the decrement of MARK, so RET reads through `R[2]` the byte MARK
stored, which unpacks to the old `X` and `P`. -/
theorem markThenReturnRestoresSelectors : Obligations.MarkThenReturnRestoresSelectors := by
  intro s
  refine ⟨_, _, _, _, exec_mark s, exec_inc 2 _, exec_sex 2 _, exec_ret _, ?x, ?p, ?r2, rfl⟩
  case x | p =>
    simp [State.loadXP_eq, State.incReg_eq, State.decReg_eq, State.indexByte_eq, State.packXP]
  case r2 => simp [State.loadXP_eq, State.incReg_eq, State.decReg_eq]

/-! ### Input and output -/

theorem exec_inp (port : Port) (s : State) :
    exec (.inp port) s =
      .next ((s.writeByte (s.reg s.x) s.input.ioData).setD s.input.ioData) := rfl

/-- Settles O42: OUT is one event and one increment, INP one store and one write of `D`. -/
theorem outputAndInput : Obligations.OutputAndInput := by
  intro s port
  refine ⟨fun hport => encodes_of_f1 (opcodeForm_out hport), encodes_of_f1 (opcodeForm_inp port),
    fun _ _ => State.input_of_inputs, fun _ => ?out, ?inp⟩
  case out =>
    exact ⟨_, exec_out port s, rfl, State.toNat_reg_incReg_same _ s.x,
      exec_changesOnly (exec_out port s)⟩
  case inp =>
    exact ⟨_, exec_inp port s, rfl, s.readByte_writeByte_same _ _,
      exec_changesOnly (exec_inp port s)⟩

end Sys2Proof.Machine

/-! Steps at a known opcode (45_short_branch.md section 1, 42_register_ops.md, 70_reset_and_hazards.md
section 3): the execute phase runs on the advanced state, so what a register named twice holds, and
the page a short branch lands in, follow from the one step lemma of each length. -/

namespace Sys2Proof.Machine

/-! ### SEP -/

/-- Settles O24: `P` changes after the old program counter was advanced, so SEP of it reads the
advanced value. -/
theorem sepSwitchesProgramCounter : Obligations.SepSwitchesProgramCounter := by
  intro s n h hb
  have hform : opcodeForm (s.readByte s.pc) = .f1 (.sep n) := hb ▸ opcodeForm_sep n
  refine ⟨_, step_of_f1 h hform (exec_sep n _), rfl, s.reg_setReg_same s.p _, ?pc⟩
  case pc =>
    change (s.setReg s.p (s.pc + 1)).reg n = _
    simp only [State.reg_setReg, eq_comm]

/-! ### A register that is the program counter too -/

/-- Settles O48: STR stores at the advanced `pc`, where the next fetch begins. -/
theorem storeIsSeenByNextFetch : Obligations.StoreIsSeenByNextFetch := by
  intro s h hb
  have hform : opcodeForm (s.readByte s.pc) = .f1 (.str s.p) := hb ▸ opcodeForm_str s.p
  refine ⟨_, step_of_f1 h hform (exec_str s.p _), s.reg_setReg_same s.p _, ?byte, ?fetch⟩
  case byte => exact State.readByte_writeByte_same _ _ _
  case fetch =>
    obtain ⟨rest, hrest⟩ := State.exists_fetchBytes_eq_cons _
    rw [hrest, List.head?_cons]
    exact congrArg some (State.readByte_writeByte_same _ _ _)

/-- A decrement takes back the advance of a one-byte instruction. -/
theorem State.reg_decReg_incReg (s : State) (i : Nibble) :
    ((s.incReg i).decReg i).reg i = s.reg i := by
  simp [State.decReg_eq, State.incReg_eq]

/-- Settles O49: in each of the three, the advance and the decrement are of the same register; what is
stored in between goes to the byte after the opcode. -/
theorem aliasedStepsStandStill : Obligations.AliasedStepsStandStill := by
  intro s h
  refine ⟨fun hb => ?dec, fun hb hx => ?stxd, fun hb hp => ?mark⟩
  case dec =>
    have hform : opcodeForm (s.readByte s.pc) = .f1 (.dec s.p) := hb ▸ opcodeForm_dec s.p
    exact ⟨_, step_of_f1 h hform (exec_dec s.p _), s.reg_decReg_incReg s.p⟩
  case stxd =>
    have hform : opcodeForm (s.readByte s.pc) = .f1 .stxd := hb ▸ rfl
    refine ⟨_, step_of_f1 h hform (exec_stxd _), ?pc, ?byte⟩
    case pc | byte => simp [State.pc, State.decReg_eq, State.incReg_eq, hx]
  case mark =>
    have hform : opcodeForm (s.readByte s.pc) = .f1 .mark := hb ▸ rfl
    refine ⟨_, step_of_f1 h hform (exec_mark _), ?pc, ?byte⟩
    case pc => simp [State.pc, State.decReg_eq, State.incReg_eq, hp]
    case byte => simp [State.pc, State.decReg_eq, State.incReg_eq, State.packXP, hp, toNat_joinNibbles]

/-- Settles O50: the load reads at the advanced `pc`, and the increment after it is of the same
register. -/
theorem inlineOperandIdiom : Obligations.InlineOperandIdiom := by
  intro s h
  refine ⟨fun hb => ?lda, fun hb hx => ?ldxa⟩
  case lda =>
    have hform : opcodeForm (s.readByte s.pc) = .f1 (.lda s.p) := hb ▸ opcodeForm_lda s.p
    refine ⟨_, step_of_f1 h hform (exec_lda s.p _), ?d, ?pc⟩
    case d => simp [State.pc, State.incReg_eq]
    case pc => simp [State.pc, State.incReg_eq, BitVec.add_assoc]
  case ldxa =>
    have hform : opcodeForm (s.readByte s.pc) = .f1 .ldxa := hb ▸ rfl
    refine ⟨_, step_of_f1 h hform (exec_ldxa _), ?d, ?pc⟩
    case d => simp [State.pc, State.incReg_eq, hx]
    case pc => simp [State.pc, State.incReg_eq, hx, BitVec.add_assoc]

/-! ### The page of a short branch -/

/-- The opcode bytes of the fifteen short branches, each with the condition it tests (45_short_branch.md
section 2). -/
def State.shortBranchConditions (s : State) : List (Byte × Bool) :=
  [(0x30, true), (0x31, s.q), (0x32, s.d == 0), (0x33, s.df), (0x34, s.ef .ef1), (0x35, s.ef .ef2),
    (0x36, s.ef .ef3), (0x37, s.ef .ef4), (0x39, !s.q), (0x3A, s.d != 0), (0x3B, !s.df),
    (0x3C, !s.ef .ef1), (0x3D, !s.ef .ef2), (0x3E, !s.ef .ef3), (0x3F, !s.ef .ef4)]

/-- The byte decodes to an instruction that is the short branch on this condition; the advance of the
step before it changes no condition. -/
def State.BranchesOn (s : State) (b : Byte × Bool) : Prop :=
  ∃ mk, opcodeForm b.1 = .f2 mk ∧
    ∀ imm, exec (mk imm) (s.advance 2) = .next ((s.advance 2).shortBranch b.2 imm)

theorem State.branchesOn_shortBranchConditions (s : State) :
    ∀ b ∈ s.shortBranchConditions, s.BranchesOn b := by
  simp only [State.shortBranchConditions, List.forall_mem_cons, State.BranchesOn]
  exact ⟨⟨.br, rfl, fun _ => rfl⟩, ⟨.bq, rfl, fun _ => rfl⟩, ⟨.bz, rfl, fun _ => rfl⟩,
    ⟨.bdf, rfl, fun _ => rfl⟩, ⟨.b1, rfl, fun _ => rfl⟩, ⟨.b2, rfl, fun _ => rfl⟩,
    ⟨.b3, rfl, fun _ => rfl⟩, ⟨.b4, rfl, fun _ => rfl⟩, ⟨.bnq, rfl, fun _ => rfl⟩,
    ⟨.bnz, rfl, fun _ => rfl⟩, ⟨.bnf, rfl, fun _ => rfl⟩, ⟨.bn1, rfl, fun _ => rfl⟩,
    ⟨.bn2, rfl, fun _ => rfl⟩, ⟨.bn3, rfl, fun _ => rfl⟩, ⟨.bn4, rfl, fun _ => rfl⟩,
    List.forall_mem_nil _⟩

theorem State.pc_advance_two (s : State) : (s.advance 2).pc.toNat = (s.pc.toNat + 2) % 65536 := by
  simp [State.advance_eq, State.pc]

/-- `P` is not a register, so a branch leaves it; `pc` goes to the immediate in the page it was in, or
stays. -/
theorem State.shortBranch_pc (s : State) (taken : Bool) (imm : Byte) :
    (s.shortBranch taken imm).p = s.p ∧
      (s.shortBranch taken imm).pc.toNat =
        if taken = true then s.pc.toNat / 256 * 256 + imm.toNat else s.pc.toNat := by
  obtain ⟨hpc, hframe⟩ := pcBecomes_shortBranch .rfl s imm (taken := taken)
  have hp : (s.shortBranch taken imm).p = s.p := hframe.parts .p List.not_mem_nil
  exact ⟨hp, by rw [State.pc, hp, hpc]⟩

/-- Settles O32: the branch runs on the advanced state, whose page is that of `pc + 2`; at 0xFFFF its
second byte is past the top of memory. -/
theorem shortBranchPage : Obligations.ShortBranchPage := by
  rintro s _ taken h rfl hmem
  obtain ⟨mk, hform, hexec⟩ := s.branchesOn_shortBranchConditions _ hmem
  refine ⟨fun hpc => ?below, fun hpc => ?top⟩
  case below =>
    have hu := hexec (s.readByte (s.pc + 1))
    obtain ⟨hp, htarget⟩ := (s.advance 2).shortBranch_pc taken (s.readByte (s.pc + 1))
    rw [s.pc_advance_two] at htarget
    refine ⟨_, step_of_f2 h hform hpc hu, hp, fun htaken => ?taken, fun hout => ?out⟩
    case taken =>
      rw [finishStep_pc, htarget, if_pos htaken]
      have himm := (s.readByte (s.pc + 1)).isLt
      exact ⟨rfl, by omega⟩
    case out => rw [finishStep_pc, htarget, if_neg (by simp [hout])]
  case top =>
    have hpc' : s.pc = 0xFFFF := BitVec.eq_of_toNat_eq hpc
    have hfits : ¬ s.instrFits := by
      simp [State.instrFits, hform, hpc, Form.length, memorySize]
    rw [step_of_not_instrFits h hfits, hpc']

end Sys2Proof.Machine

/-! What cannot be observed (10_state.md sections 4 and 5, 40_step_cycle.md section 1): an update of a
part that an instruction does not read commutes with its execute phase. Beside the transfers, which
test a condition, every meaning is a fixed chain of updates, so both orders are the same state. -/

namespace Sys2Proof.Machine

/-! ### Updates that no transfer sees -/

/-- The update leaves `pc` alone and commutes with writing it. -/
structure LeavesPc (f : State → State) : Prop where
  pc : ∀ s, (f s).pc = s.pc
  setPc : ∀ s v, (f s).setPc v = f (s.setPc v)

namespace LeavesPc

variable {f : State → State} (hf : LeavesPc f) (s : State)
include hf

theorem longBranch (taken : Bool) (addr : Addr) :
    (f s).longBranch taken addr = f (s.longBranch taken addr) := by
  cases taken
  · rfl
  · exact hf.setPc s addr

theorem longSkip (skips : Bool) : (f s).longSkip skips = f (s.longSkip skips) := by
  rw [State.longSkip_eq_longBranch, State.longSkip_eq_longBranch, hf.pc, hf.longBranch]

theorem shortBranch (taken : Bool) (imm : Byte) :
    (f s).shortBranch taken imm = f (s.shortBranch taken imm) := by
  cases taken
  · rfl
  · rw [State.shortBranch, State.shortBranch, if_pos rfl, if_pos rfl, hf.pc, hf.setPc]

end LeavesPc

theorem leavesPc_withInputs (inputs : List Input) (sample : Nat) :
    LeavesPc (·.withInputs inputs sample) := ⟨fun _ => rfl, fun _ _ => rfl⟩

theorem leavesPc_setIe (c : Bool) : LeavesPc (·.setIe c) := ⟨fun _ => rfl, fun _ _ => rfl⟩

theorem leavesPc_setT (b : Byte) : LeavesPc (·.setT b) := ⟨fun _ => rfl, fun _ _ => rfl⟩

/-- Other values in the two counters. -/
def State.withCounters (s : State) (c k : Nat) : State := { s with cycles := c, instrs := k }

theorem leavesPc_withCounters (c k : Nat) : LeavesPc (·.withCounters c k) :=
  ⟨fun _ => rfl, fun _ _ => rfl⟩

/-! ### The input record -/

/-- Settles O44: the nine operations that read the input record are left out, and the inputs to come
commute with every other meaning. -/
theorem inputSeenOnlyByEfBranchesAndInp : Obligations.InputSeenOnlyByEfBranchesAndInp := by
  intro i s inputs sample hi
  have hf := leavesPc_withInputs inputs sample
  cases i
  case b1 | b2 | b3 | b4 | bn1 | bn2 | bn3 | bn4 | inp => simp [Instr.mnemonic] at hi
  case br | bq | bz | bdf | bnq | bnz | bnf =>
    exact congrArg Host.Outcome.next (hf.shortBranch s _ _)
  case lbr | lbq | lbz | lbdf | lbnq | lbnz | lbnf =>
    exact congrArg Host.Outcome.next (hf.longBranch s _ _)
  case nop | lsnq | lsnz | lsnf | lskp | lsie | lsq | lsz | lsdf =>
    exact congrArg Host.Outcome.next (hf.longSkip s _)
  all_goals rfl

/-! ### The interrupt enable flag -/

/-- Only LSIE reads `IE`; RET and DIS write it. -/
theorem exec_setIe {i : Instr} (hi : i ∉ [.lsie, .ret, .dis]) (s : State) (c : Bool) :
    exec i (s.setIe c) = mapNext (·.setIe c) (exec i s) := by
  have hf := leavesPc_setIe c
  cases i
  case lsie | ret | dis => simp at hi
  case br | bq | bz | bdf | b1 | b2 | b3 | b4 | bnq | bnz | bnf | bn1 | bn2 | bn3 | bn4 =>
    exact congrArg Host.Outcome.next (hf.shortBranch s _ _)
  case lbr | lbq | lbz | lbdf | lbnq | lbnz | lbnf =>
    exact congrArg Host.Outcome.next (hf.longBranch s _ _)
  case nop | lsnq | lsnz | lsnf | lskp | lsq | lsz | lsdf =>
    exact congrArg Host.Outcome.next (hf.longSkip s _)
  all_goals rfl

/-- Settles O45: RET and DIS give one and the same state from either value of `IE`, and every other
instruction but LSIE keeps the value it was run with. -/
theorem ieSteersOnlyLsie : Obligations.IeSteersOnlyLsie := by
  intro i s c hi
  by_cases hwriter : i = .ret ∨ i = .dis
  · obtain rfl | rfl := hwriter <;> exact ⟨_, _, rfl, rfl, rfl⟩
  · obtain ⟨hret, hdis⟩ := not_or.mp hwriter
    have hother : i ∉ [.lsie, .ret, .dis] := by simp [hi, hret, hdis]
    obtain ⟨t, ht⟩ := exec_eq_next i s
    have hu := exec_setIe hother s c
    rw [ht] at hu
    exact ⟨t, t.setIe c, ht, hu, rfl⟩

/-! ### The saved pair -/

/-- Only SAV reads `T`; MARK writes it. -/
theorem exec_setT {i : Instr} (hi : i ∉ [.sav, .mark]) (s : State) (b : Byte) :
    exec i (s.setT b) = mapNext (·.setT b) (exec i s) := by
  have hf := leavesPc_setT b
  cases i
  case sav | mark => simp at hi
  case br | bq | bz | bdf | b1 | b2 | b3 | b4 | bnq | bnz | bnf | bn1 | bn2 | bn3 | bn4 =>
    exact congrArg Host.Outcome.next (hf.shortBranch s _ _)
  case lbr | lbq | lbz | lbdf | lbnq | lbnz | lbnf =>
    exact congrArg Host.Outcome.next (hf.longBranch s _ _)
  case nop | lsnq | lsnz | lsnf | lskp | lsie | lsq | lsz | lsdf =>
    exact congrArg Host.Outcome.next (hf.longSkip s _)
  all_goals rfl

/-- Settles O46: MARK gives one and the same state whatever `T` held, and every other instruction but
SAV keeps the byte it was run with. -/
theorem savedPairSeenOnlyBySav : Obligations.SavedPairSeenOnlyBySav := by
  intro i s b hi
  by_cases hmark : i = .mark
  · subst hmark
    exact ⟨_, _, rfl, rfl, rfl⟩
  · have hother : i ∉ [.sav, .mark] := by simp [hi, hmark]
    obtain ⟨t, ht⟩ := exec_eq_next i s
    have hu := exec_setT hother s b
    rw [ht] at hu
    exact ⟨t, t.setT b, ht, hu, rfl⟩

/-! ### The counters -/

/-- No instruction reads or writes a counter. -/
theorem exec_withCounters (i : Instr) (s : State) (c k : Nat) :
    exec i (s.withCounters c k) = mapNext (·.withCounters c k) (exec i s) := by
  have hf := leavesPc_withCounters c k
  cases i
  case br | bq | bz | bdf | b1 | b2 | b3 | b4 | bnq | bnz | bnf | bn1 | bn2 | bn3 | bn4 =>
    exact congrArg Host.Outcome.next (hf.shortBranch s _ _)
  case lbr | lbq | lbz | lbdf | lbnq | lbnz | lbnf =>
    exact congrArg Host.Outcome.next (hf.longBranch s _ _)
  case nop | lsnq | lsnz | lsnf | lskp | lsie | lsq | lsz | lsdf =>
    exact congrArg Host.Outcome.next (hf.longSkip s _)
  all_goals rfl

/-- Settles O47: the counters commute with the execute phase, which leaves them alone. -/
theorem countersNeverSteer : Obligations.CountersNeverSteer := by
  intro i s c k
  obtain ⟨t, ht⟩ := exec_eq_next i s
  obtain ⟨hcycles, hinstrs⟩ := exec_counters ht
  have hu := exec_withCounters i s c k
  rw [ht] at hu
  exact ⟨t, ht, hcycles, hinstrs, hu⟩

end Sys2Proof.Machine

/-! The host's force-set, the bulk run and the placed word (60_exceptions.md section 5,
40_step_cycle.md section 3, log 11): what each of them leaves for the reads and the step after it. -/

namespace Sys2Proof.Machine

/-! ### Force-set -/

theorem toNat_truncateBit (v : Nat) : (truncateBit v).toNat = v % 2 := by
  obtain h | h := Nat.mod_two_eq_zero_or_one v <;> simp [truncateBit, h]

/-- Two register indices the host accepts name the same register only if they are the same. -/
theorem ofNat_index_ne {i j : Nat} (hi : i < 16) (hj : j < 16) (h : j ≠ i) :
    (BitVec.ofNat 4 i : Nibble) ≠ BitVec.ofNat 4 j := fun heq => by
  have hval := congrArg BitVec.toNat heq
  simp only [BitVec.toNat_ofNat] at hval
  omega

/-- The element just set reads as the value truncated to its width. -/
theorem hostRead_hostSet_same {s t : State} {e : Element} {v : Nat} (h : s.hostSet e v = .ok t) :
    t.hostRead e = .ok (e.truncate v) := by
  cases e <;> simp only [State.hostSet] at h
  case reg i =>
    split at h
    · next hi => cases h; simp [State.hostRead, hi, Element.truncate, Element.bits]
    · cases h
  case df | ie | q | halted => cases h; exact congrArg Except.ok (toNat_truncateBit v)
  all_goals cases h; simp [State.hostRead, Element.truncate, Element.bits]

/-- Every other element reads as before: but for two registers or two addresses, the write is of
another field of the state. -/
theorem hostRead_hostSet_of_ne {s t : State} {e e' : Element} {v : Nat}
    (h : s.hostSet e v = .ok t) (hne : e' ≠ e) : t.hostRead e' = s.hostRead e' := by
  cases e <;> simp only [State.hostSet] at h
  case reg i =>
    split at h
    · next hi =>
      cases h
      cases e'
      case reg j =>
        have hj : j ≠ i := fun heq => hne (heq ▸ rfl)
        by_cases hlt : j < 16
        · simp [State.hostRead, hlt, ofNat_index_ne hi hlt hj]
        · simp [State.hostRead, hlt]
      all_goals rfl
    · cases h
  case mem a =>
    cases h
    cases e'
    case mem b =>
      have hb : b ≠ a := fun heq => hne (heq ▸ rfl)
      exact congrArg (fun c : Byte => Except.ok c.toNat) (s.readByte_writeByte_of_ne hb _)
    all_goals rfl
  all_goals cases h; cases e' <;> simp_all [State.hostRead, State.reg, State.readByte]

/-- Settles O53: the element itself, and every other one. -/
theorem hostSetWritesOneElement : Obligations.HostSetWritesOneElement := fun _ _ _ _ h =>
  ⟨hostRead_hostSet_same h, fun _ => hostRead_hostSet_of_ne h⟩

/-! ### The bulk run -/

/-- A step is never declined: it faults before its execute phase or goes through. -/
theorem step_ne_refused (s : State) (r : Refusal) : step s ≠ .refused r := by
  cases h : s.halted with
  | true => simp [step_halted h]
  | false =>
    by_cases hfits : s.instrFits
    · obtain ⟨t, ht⟩ := exists_step_of_instrFits h hfits
      simp [ht]
    · simp [step_of_not_instrFits h hfits]

/-- What a run can do with a budget left: end halted, end on a fault, or take a step and go on. -/
theorem run_succ_cases (s : State) (max : Nat) :
    (s.halted = true ∧ s.run (max + 1) = (s, .ok)) ∨
      (∃ f, step s = .fault f ∧ s.run (max + 1) = (s, .err f)) ∨
      ∃ u, step s = .next u ∧ s.run (max + 1) = u.run max := by
  rw [State.run]
  cases hh : s.halted with
  | true => exact .inl ⟨rfl, rfl⟩
  | false =>
    cases h : step s with
    | next u => exact .inr (.inr ⟨u, rfl, rfl⟩)
    | fault f => exact .inr (.inl ⟨f, rfl, rfl⟩)
    | refused r => exact absurd h (step_ne_refused s r)

/-- Settles O54: by induction on the budget; each step of the run adds one to the counter. -/
theorem runStaysInBudget : Obligations.RunStaysInBudget := by
  intro max
  induction max with
  | zero =>
    rintro s t e h
    obtain ⟨rfl, rfl⟩ := Prod.mk.inj h
    simp
  | succ max ih =>
    intro s t e h
    obtain ⟨hh, hrun⟩ | ⟨f, hstep, hrun⟩ | ⟨u, hstep, hrun⟩ := run_succ_cases s max
    · obtain ⟨rfl, rfl⟩ := Prod.mk.inj (hrun.symm.trans h)
      simp [hh]
    · obtain ⟨rfl, rfl⟩ := Prod.mk.inj (hrun.symm.trans h)
      simp [hstep]
    · obtain ⟨hlow, hhigh, hok, herr, hdeclined⟩ := ih u t e (hrun.symm.trans h)
      obtain ⟨hcycles, -⟩ := step_counters hstep
      refine ⟨by omega, by omega, fun he => (hok he).imp_right fun hc => ?_, herr, hdeclined⟩
      omega

/-! ### The placed word -/

theorem withFetchWord_pc (s : State) (nbits w : Nat) : (s.withFetchWord nbits w).pc = s.pc := by
  rw [withFetchWord_eq]; rfl

theorem withFetchWord_halted (s : State) (nbits w : Nat) :
    (s.withFetchWord nbits w).halted = s.halted := by
  rw [withFetchWord_eq]

/-- Three bytes laid out at `pc`, on three different addresses, are the bytes fetched. -/
theorem fetchBytes_withFetchWord {s : State} (h : s.pc.toNat ≤ 0xFFFD) (nbits w : Nat) :
    (s.withFetchWord nbits w).fetchBytes = tableBytes nbits w := by
  obtain ⟨b0, b1, b2, hbytes⟩ : ∃ b0 b1 b2, tableBytes nbits w = [b0, b1, b2] := ⟨_, _, _, rfl⟩
  rw [State.fetchBytes, withFetchWord_pc, fetchAddrs_of_le h, State.withFetchWord, State.placeAtPc,
    fetchAddrs_of_le h, hbytes]
  simp [State.writeBytes]

/-- Settles O58: the next fetch decodes the bytes of the word, so the next step runs what the table
says they are. -/
theorem placedWordRunsNext : Obligations.PlacedWordRunsNext := by
  intro s nbits w i h hpc hword
  have hf : (s.withFetchWord nbits w).fetch = some i := by
    rw [State.fetch, fetchBytes_withFetchWord hpc]
    exact hword
  exact ⟨hf, exists_step_of_fetch ((withFetchWord_halted s nbits w).trans h) hf⟩

end Sys2Proof.Machine
